-- ==== Sys2Proof/Word.lean ====
section
/-! DEFINITION. The word types of the DMX512 Transmit Engine (R6, R70): bytes, 32-bit host registers, 40-bit Host Access Words. -/

namespace Sys2Proof

/-- One queue entry, one character on the wire (R29). -/
abbrev Byte := BitVec 8

/-- One host register, one bus access (`REG_W`, R6). -/
abbrev Word := BitVec 32

/-- The 40-bit Host Access Word, one host access in one cycle (R70). -/
abbrev Haw := BitVec 40

/-- The 4-bit phase code, the Timing Program's micro-program counter (R26, R76). -/
abbrev PhaseCode := BitVec 4

end Sys2Proof
end

