-- ==== Sys2Proof/Machine/Operands.lean ====
section
/-! DEFINITION. The fields of a Host Access Word (R70, R71) and the operand fields of its DATA (R72).  Every operand is an unsigned
field; none is sign-extended or scaled. -/

namespace Sys2Proof

/-- `WR`, HAW bit 39 (R70): true for a write. -/
def hawWr (w : Haw) : Bool := w.getLsbD 39

/-- `ADDR`, HAW bits 38:32 (R70). -/
def hawAddr (w : Haw) : BitVec 7 := w.extractLsb' 32 7

/-- `REG = ADDR[6:2]`, HAW bits 38:34 (R71). -/
def hawReg (w : Haw) : BitVec 5 := w.extractLsb' 34 5

/-- `ADDR[1:0]`, HAW bits 33:32, which no rule reads (R71). -/
def hawAddrLow (w : Haw) : BitVec 2 := w.extractLsb' 32 2

/-- `DATA`, HAW bits 31:0 (R70). -/
def hawData (w : Haw) : Word := w.extractLsb' 0 32

/-- The HAW with these fields (R70, R71). -/
def mkHaw (wr : Bool) (reg : BitVec 5) (aa : BitVec 2) (data : Word) : Haw :=
  BitVec.ofBool wr ++ reg ++ aa ++ data

/-- PUSH's operand `b = DATA[7:0]` (R72). -/
def opByte (data : Word) : Byte := data.extractLsb' 0 8

/-- `DATA[31:8]`, which PUSH ignores (R72). -/
def opAboveByte (data : Word) : BitVec 24 := data.extractLsb' 8 24

/-- WR_STATUS's clear mask `m = DATA[19:16]`: bit 0 of the mask is ERR_TXOVER, bit 3 is ERR_CMD (R72). -/
def opClearMask (data : Word) : BitVec 4 := data.extractLsb' 16 4

/-- `DATA[31:20]`, which WR_STATUS ignores (R72). -/
def opAboveMask (data : Word) : BitVec 12 := data.extractLsb' 20 12

/-- `DATA[15:0]`, which WR_STATUS ignores (R72). -/
def opBelowMask (data : Word) : BitVec 16 := data.extractLsb' 0 16

/-- WR_CLKDIV's `INT = DATA[31:16]` (R72). -/
def opInt (data : Word) : BitVec 16 := data.extractLsb' 16 16

/-- WR_CLKDIV's `FRAC = DATA[15:8]` (R72). -/
def opFrac (data : Word) : BitVec 8 := data.extractLsb' 8 8

/-- `DATA[7:0]`, which WR_CLKDIV ignores (R72). -/
def opBelowFrac (data : Word) : BitVec 8 := data.extractLsb' 0 8

/-- The command code `CODE = DATA[3:0]` (R71, R72). -/
def opCode (data : Word) : BitVec 4 := data.extractLsb' 0 4

/-- `DATA[31:4]`, which every CMD write ignores (R35). -/
def opAboveCode (data : Word) : BitVec 28 := data.extractLsb' 4 28

end Sys2Proof
end

