-- ==== Sys2Proof/Syntax.lean ====
section
/-! DEFINITION. The instructions: the 23 Host Access Word rows and the 9 Timing Program phase rows of the opcode table (R73, R76, R84).
Every field of an encoding is an operand, the ignored ones too, so that an instruction and its word carry the same information. -/

namespace Sys2Proof

/-- One constructor per row of the opcode table.  In the HAW rows `aa` is `ADDR[1:0]` (ignored, R71); `data`, `hi` and `lo` are the
bits of DATA that the row ignores (R72); `reg` is `ADDR[6:2]` where the row leaves part of it free. -/
inductive Instr
  /-- R130: write TXDATA; `b = DATA[7:0]`, `hi = DATA[31:8]`. -/
  | push (aa : BitVec 2) (hi : BitVec 24) (b : Byte)
  /-- R131: read TXDATA. -/
  | rdTxdata (aa : BitVec 2) (data : Word)
  /-- R132: read STATUS. -/
  | rdStatus (aa : BitVec 2) (data : Word)
  /-- R133: write STATUS; `m = DATA[19:16]`, `hi = DATA[31:20]`, `lo = DATA[15:0]`. -/
  | wrStatus (aa : BitVec 2) (hi : BitVec 12) (m : BitVec 4) (lo : BitVec 16)
  /-- R116: read CLKDIV. -/
  | rdClkdiv (aa : BitVec 2) (data : Word)
  /-- R117: write CLKDIV; `int = DATA[31:16]`, `frac = DATA[15:8]`, `lo = DATA[7:0]`. -/
  | wrClkdiv (aa : BitVec 2) (int : BitVec 16) (frac : BitVec 8) (lo : BitVec 8)
  /-- R135: read CMD. -/
  | rdCmd (aa : BitVec 2) (data : Word)
  /-- R134: CMD code 0x0; `hi = DATA[31:4]`. -/
  | cmdNop (aa : BitVec 2) (hi : BitVec 28)
  /-- R118: CMD code 0x1. -/
  | cmdEnable (aa : BitVec 2) (hi : BitVec 28)
  /-- R136: CMD code 0x2. -/
  | cmdRestart (aa : BitVec 2) (hi : BitVec 28)
  /-- R137: CMD code 0x3. -/
  | cmdReserved3 (aa : BitVec 2) (hi : BitVec 28)
  /-- R137: CMD codes 0x4 to 0x7. -/
  | cmdReserved4_7 (aa : BitVec 2) (hi : BitVec 28) (code : BitVec 4)
  /-- R137: CMD codes 0x8 to 0xF. -/
  | cmdReserved8_15 (aa : BitVec 2) (hi : BitVec 28) (code : BitVec 4)
  /-- R119: read PARAM. -/
  | rdParam (aa : BitVec 2) (data : Word)
  /-- R120: write PARAM. -/
  | wrParam (aa : BitVec 2) (data : Word)
  /-- R138: read word index 5. -/
  | rdRsvd5 (aa : BitVec 2) (data : Word)
  /-- R138: read word index 6 or 7. -/
  | rdRsvd6_7 (reg : BitVec 5) (aa : BitVec 2) (data : Word)
  /-- R138: read word indices 8 to 15. -/
  | rdRsvd8_15 (reg : BitVec 5) (aa : BitVec 2) (data : Word)
  /-- R138: read word indices 16 to 31. -/
  | rdRsvd16_31 (reg : BitVec 5) (aa : BitVec 2) (data : Word)
  /-- R139: write word index 5. -/
  | wrRsvd5 (aa : BitVec 2) (data : Word)
  /-- R139: write word index 6 or 7. -/
  | wrRsvd6_7 (reg : BitVec 5) (aa : BitVec 2) (data : Word)
  /-- R139: write word indices 8 to 15. -/
  | wrRsvd8_15 (reg : BitVec 5) (aa : BitVec 2) (data : Word)
  /-- R139: write word indices 16 to 31. -/
  | wrRsvd16_31 (reg : BitVec 5) (aa : BitVec 2) (data : Word)
  /-- R94: the Timing Program's step at a tick in IDLE. -/
  | tpIdle
  /-- R95: the step at a tick in BREAK. -/
  | tpBreak
  /-- R96: the step at a tick in MAB. -/
  | tpMab
  /-- R97: the step at a tick in START. -/
  | tpStart
  /-- R98: the step at a tick in DATA. -/
  | tpData
  /-- R99: the step at a tick in STOP1. -/
  | tpStop1
  /-- R100: the step at a tick in STOP2. -/
  | tpStop2
  /-- R101: a tick in the reserved phase code 0x7. -/
  | tpReserved7
  /-- R101: a tick in one of the reserved phase codes 0x8 to 0xF. -/
  | tpReserved8_15 (code : PhaseCode)
deriving DecidableEq, Repr

end Sys2Proof
end

