-- ==== Sys2Proof/WellFormed.lean ====
section
/-! DEFINITION. Which instruction terms stand for a word: the range checks on the operands that an encoding leaves only partly free (R73, R76). -/

namespace Sys2Proof

/-- An instruction is well formed when its partly free field lies in the range its row of the table gives. -/
def Instr.wf : Instr → Bool
  | .push _ _ _ => true
  | .rdTxdata _ _ => true
  | .rdStatus _ _ => true
  | .wrStatus _ _ _ _ => true
  | .rdClkdiv _ _ => true
  | .wrClkdiv _ _ _ _ => true
  | .rdCmd _ _ => true
  | .cmdNop _ _ => true
  | .cmdEnable _ _ => true
  | .cmdRestart _ _ => true
  | .cmdReserved3 _ _ => true
  | .cmdReserved4_7 _ _ code => decide (4 ≤ code.toNat ∧ code.toNat ≤ 7)
  | .cmdReserved8_15 _ _ code => decide (8 ≤ code.toNat)
  | .rdParam _ _ => true
  | .wrParam _ _ => true
  | .rdRsvd5 _ _ => true
  | .rdRsvd6_7 reg _ _ => decide (6 ≤ reg.toNat ∧ reg.toNat ≤ 7)
  | .rdRsvd8_15 reg _ _ => decide (8 ≤ reg.toNat ∧ reg.toNat ≤ 15)
  | .rdRsvd16_31 reg _ _ => decide (16 ≤ reg.toNat)
  | .wrRsvd5 _ _ => true
  | .wrRsvd6_7 reg _ _ => decide (6 ≤ reg.toNat ∧ reg.toNat ≤ 7)
  | .wrRsvd8_15 reg _ _ => decide (8 ≤ reg.toNat ∧ reg.toNat ≤ 15)
  | .wrRsvd16_31 reg _ _ => decide (16 ≤ reg.toNat)
  | .tpIdle => true
  | .tpBreak => true
  | .tpMab => true
  | .tpStart => true
  | .tpData => true
  | .tpStop1 => true
  | .tpStop2 => true
  | .tpReserved7 => true
  | .tpReserved8_15 code => decide (8 ≤ code.toNat)

end Sys2Proof
end

