-- ==== Sys2Proof/Decode.lean ====
section
/-! DEFINITION. The two decoders (R73, R76), the encoder written from the same tables, and the table itself as rows of mask and match (R73, R84). -/

namespace Sys2Proof

/-- What the spec calls an encoded instruction: a HAW of 40 bits or a phase code of 4 (R78). -/
inductive TableWord
  | haw (w : Haw)
  | phase (p : PhaseCode)
deriving DecidableEq, Repr

/-- A write to CMD: `CODE = DATA[3:0]` selects the command (R71, R74). -/
def decodeCommand (aa : BitVec 2) (data : Word) : Instr :=
  if opCode data = 0#4 then .cmdNop aa (opAboveCode data)
  else if opCode data = 1#4 then .cmdEnable aa (opAboveCode data)
  else if opCode data = 2#4 then .cmdRestart aa (opAboveCode data)
  else if opCode data = 3#4 then .cmdReserved3 aa (opAboveCode data)
  else if (opCode data).toNat ≤ 7 then .cmdReserved4_7 aa (opAboveCode data) (opCode data)
  else .cmdReserved8_15 aa (opAboveCode data) (opCode data)

/-- The rows with `WR = 0`, selected by the word index `REG` (R52, R73). -/
def decodeRead (reg : BitVec 5) (aa : BitVec 2) (data : Word) : Instr :=
  if reg = 0#5 then .rdTxdata aa data
  else if reg = 1#5 then .rdStatus aa data
  else if reg = 2#5 then .rdClkdiv aa data
  else if reg = 3#5 then .rdCmd aa data
  else if reg = 4#5 then .rdParam aa data
  else if reg = 5#5 then .rdRsvd5 aa data
  else if reg.toNat ≤ 7 then .rdRsvd6_7 reg aa data
  else if reg.toNat ≤ 15 then .rdRsvd8_15 reg aa data
  else .rdRsvd16_31 reg aa data

/-- The rows with `WR = 1`, selected by the word index `REG` and, for CMD, by `CODE` (R52, R73). -/
def decodeWrite (reg : BitVec 5) (aa : BitVec 2) (data : Word) : Instr :=
  if reg = 0#5 then .push aa (opAboveByte data) (opByte data)
  else if reg = 1#5 then .wrStatus aa (opAboveMask data) (opClearMask data) (opBelowMask data)
  else if reg = 2#5 then .wrClkdiv aa (opInt data) (opFrac data) (opBelowFrac data)
  else if reg = 3#5 then decodeCommand aa data
  else if reg = 4#5 then .wrParam aa data
  else if reg = 5#5 then .wrRsvd5 aa data
  else if reg.toNat ≤ 7 then .wrRsvd6_7 reg aa data
  else if reg.toNat ≤ 15 then .wrRsvd8_15 reg aa data
  else .wrRsvd16_31 reg aa data

/-- The host decoder: every HAW has exactly one meaning (R73, R75). -/
def decodeHaw (w : Haw) : Instr :=
  if hawWr w then decodeWrite (hawReg w) (hawAddrLow w) (hawData w)
  else decodeRead (hawReg w) (hawAddrLow w) (hawData w)

/-- The Engine's decode: a match on `PHASE` (R76, R77). -/
def decodePhase (p : PhaseCode) : Instr :=
  if p = 0#4 then .tpIdle
  else if p = 1#4 then .tpBreak
  else if p = 2#4 then .tpMab
  else if p = 3#4 then .tpStart
  else if p = 4#4 then .tpData
  else if p = 5#4 then .tpStop1
  else if p = 6#4 then .tpStop2
  else if p = 7#4 then .tpReserved7
  else .tpReserved8_15 p

/-- Decoding of either format. -/
def decodeTable : TableWord → Instr
  | .haw w => decodeHaw w
  | .phase p => decodePhase p

/-- Why a string of bytes is no instruction. -/
inductive DecodeError
  /-- neither the 1 byte of a phase code nor the 5 bytes of a HAW (R78); safe, since no bus or register can hold such a string -/
  | wrongLength (n : Nat)
  /-- a byte above 0x0F, where a phase code has 4 bits (R78); safe, for the same reason -/
  | phaseTooWide (b : Byte)
deriving DecidableEq, Repr

/-- The bytes of a table word, least significant first.  The hardware stores neither format in a memory: this order is the model's
own (log entry 4). -/
def bytesOfTable : TableWord → List Byte
  | .haw w => [w.extractLsb' 0 8, w.extractLsb' 8 8, w.extractLsb' 16 8, w.extractLsb' 24 8, w.extractLsb' 32 8]
  | .phase p => [p.zeroExtend 8]

/-- The decoder on bytes: total, rejecting by name. -/
def decode : List Byte → Except DecodeError Instr
  | [b] =>
    if b.extractLsb' 4 4 = 0#4 then .ok (decodePhase (b.extractLsb' 0 4)) else .error (.phaseTooWide b)
  | [b0, b1, b2, b3, b4] => .ok (decodeHaw (b4 ++ b3 ++ b2 ++ b1 ++ b0))
  | bs => .error (.wrongLength bs.length)

/-- The word of a well-formed instruction, from the patterns of R73 and R76. -/
def encode : Instr → TableWord
  | .push aa hi b => .haw (mkHaw true 0#5 aa (hi ++ b))
  | .rdTxdata aa data => .haw (mkHaw false 0#5 aa data)
  | .rdStatus aa data => .haw (mkHaw false 1#5 aa data)
  | .wrStatus aa hi m lo => .haw (mkHaw true 1#5 aa (hi ++ m ++ lo))
  | .rdClkdiv aa data => .haw (mkHaw false 2#5 aa data)
  | .wrClkdiv aa int frac lo => .haw (mkHaw true 2#5 aa (int ++ frac ++ lo))
  | .rdCmd aa data => .haw (mkHaw false 3#5 aa data)
  | .cmdNop aa hi => .haw (mkHaw true 3#5 aa (hi ++ 0#4))
  | .cmdEnable aa hi => .haw (mkHaw true 3#5 aa (hi ++ 1#4))
  | .cmdRestart aa hi => .haw (mkHaw true 3#5 aa (hi ++ 2#4))
  | .cmdReserved3 aa hi => .haw (mkHaw true 3#5 aa (hi ++ 3#4))
  | .cmdReserved4_7 aa hi code => .haw (mkHaw true 3#5 aa (hi ++ code))
  | .cmdReserved8_15 aa hi code => .haw (mkHaw true 3#5 aa (hi ++ code))
  | .rdParam aa data => .haw (mkHaw false 4#5 aa data)
  | .wrParam aa data => .haw (mkHaw true 4#5 aa data)
  | .rdRsvd5 aa data => .haw (mkHaw false 5#5 aa data)
  | .rdRsvd6_7 reg aa data => .haw (mkHaw false reg aa data)
  | .rdRsvd8_15 reg aa data => .haw (mkHaw false reg aa data)
  | .rdRsvd16_31 reg aa data => .haw (mkHaw false reg aa data)
  | .wrRsvd5 aa data => .haw (mkHaw true 5#5 aa data)
  | .wrRsvd6_7 reg aa data => .haw (mkHaw true reg aa data)
  | .wrRsvd8_15 reg aa data => .haw (mkHaw true reg aa data)
  | .wrRsvd16_31 reg aa data => .haw (mkHaw true reg aa data)
  | .tpIdle => .phase 0#4
  | .tpBreak => .phase 1#4
  | .tpMab => .phase 2#4
  | .tpStart => .phase 3#4
  | .tpData => .phase 4#4
  | .tpStop1 => .phase 5#4
  | .tpStop2 => .phase 6#4
  | .tpReserved7 => .phase 7#4
  | .tpReserved8_15 code => .phase code

/-- The low `n` bytes of `w`, least significant first. -/
def lowBytes : Nat → Nat → List Byte
  | 0, _ => []
  | n + 1, w => BitVec.ofNat 8 w :: lowBytes n (w / 256)

/-- How many bytes a table row of `nbits` bits has: a phase row is 4 bits (one byte), every other row a HAW. -/
def tableBytes (nbits : Nat) : Nat := if nbits ≤ 8 then 1 else 5

/-- The instruction the decoder reads from a word of the opcode table, bit 0 its least significant bit. -/
def decodeTableWord (nbits w : Nat) : Option Instr :=
  if w < 256 ^ tableBytes nbits then (decode (lowBytes (tableBytes nbits) w)).toOption else none

/-- The mnemonic of an instruction's row (R73, R84). -/
def Instr.mnemonic : Instr → String
  | .push _ _ _ => "PUSH"
  | .rdTxdata _ _ => "RD_TXDATA"
  | .rdStatus _ _ => "RD_STATUS"
  | .wrStatus _ _ _ _ => "WR_STATUS"
  | .rdClkdiv _ _ => "RD_CLKDIV"
  | .wrClkdiv _ _ _ _ => "WR_CLKDIV"
  | .rdCmd _ _ => "RD_CMD"
  | .cmdNop _ _ => "CMD_NOP"
  | .cmdEnable _ _ => "CMD_ENABLE"
  | .cmdRestart _ _ => "CMD_RESTART"
  | .cmdReserved3 _ _ => "CMD_RESERVED_3"
  | .cmdReserved4_7 _ _ _ => "CMD_RESERVED_4_7"
  | .cmdReserved8_15 _ _ _ => "CMD_RESERVED_8_15"
  | .rdParam _ _ => "RD_PARAM"
  | .wrParam _ _ => "WR_PARAM"
  | .rdRsvd5 _ _ => "RD_RSVD_5"
  | .rdRsvd6_7 _ _ _ => "RD_RSVD_6_7"
  | .rdRsvd8_15 _ _ _ => "RD_RSVD_8_15"
  | .rdRsvd16_31 _ _ _ => "RD_RSVD_16_31"
  | .wrRsvd5 _ _ => "WR_RSVD_5"
  | .wrRsvd6_7 _ _ _ => "WR_RSVD_6_7"
  | .wrRsvd8_15 _ _ _ => "WR_RSVD_8_15"
  | .wrRsvd16_31 _ _ _ => "WR_RSVD_16_31"
  | .tpIdle => "TP_IDLE"
  | .tpBreak => "TP_BREAK"
  | .tpMab => "TP_MAB"
  | .tpStart => "TP_START"
  | .tpData => "TP_DATA"
  | .tpStop1 => "TP_STOP1"
  | .tpStop2 => "TP_STOP2"
  | .tpReserved7 => "TP_RESERVED_7"
  | .tpReserved8_15 _ => "TP_RESERVED_8_15"

/-- One row of R73: the HAW matches when `HAW & mask = pat`. -/
structure HawRow where
  mnemonic : String
  pat : Haw
  mask : Haw
deriving DecidableEq, Repr

/-- Whether a HAW matches a row (R73). -/
def HawRow.matches (r : HawRow) (w : Haw) : Bool := w &&& r.mask == r.pat

/-- The read rows of R73, as the table gives them. -/
def hawReadRows : List HawRow :=
  [ ⟨"RD_TXDATA", 0x0000000000#40, 0xFC00000000#40⟩,
    ⟨"RD_STATUS", 0x0400000000#40, 0xFC00000000#40⟩,
    ⟨"RD_CLKDIV", 0x0800000000#40, 0xFC00000000#40⟩,
    ⟨"RD_CMD", 0x0C00000000#40, 0xFC00000000#40⟩,
    ⟨"RD_PARAM", 0x1000000000#40, 0xFC00000000#40⟩,
    ⟨"RD_RSVD_5", 0x1400000000#40, 0xFC00000000#40⟩,
    ⟨"RD_RSVD_6_7", 0x1800000000#40, 0xF800000000#40⟩,
    ⟨"RD_RSVD_8_15", 0x2000000000#40, 0xE000000000#40⟩,
    ⟨"RD_RSVD_16_31", 0x4000000000#40, 0xC000000000#40⟩ ]

/-- The write rows of R73 other than CMD's. -/
def hawWriteRows : List HawRow :=
  [ ⟨"PUSH", 0x8000000000#40, 0xFC00000000#40⟩,
    ⟨"WR_STATUS", 0x8400000000#40, 0xFC00000000#40⟩,
    ⟨"WR_CLKDIV", 0x8800000000#40, 0xFC00000000#40⟩,
    ⟨"WR_PARAM", 0x9000000000#40, 0xFC00000000#40⟩,
    ⟨"WR_RSVD_5", 0x9400000000#40, 0xFC00000000#40⟩,
    ⟨"WR_RSVD_6_7", 0x9800000000#40, 0xF800000000#40⟩,
    ⟨"WR_RSVD_8_15", 0xA000000000#40, 0xE000000000#40⟩,
    ⟨"WR_RSVD_16_31", 0xC000000000#40, 0xC000000000#40⟩ ]

/-- CMD's write rows of R73. -/
def hawCommandRows : List HawRow :=
  [ ⟨"CMD_NOP", 0x8C00000000#40, 0xFC0000000F#40⟩,
    ⟨"CMD_ENABLE", 0x8C00000001#40, 0xFC0000000F#40⟩,
    ⟨"CMD_RESTART", 0x8C00000002#40, 0xFC0000000F#40⟩,
    ⟨"CMD_RESERVED_3", 0x8C00000003#40, 0xFC0000000F#40⟩,
    ⟨"CMD_RESERVED_4_7", 0x8C00000004#40, 0xFC0000000C#40⟩,
    ⟨"CMD_RESERVED_8_15", 0x8C00000008#40, 0xFC00000008#40⟩ ]

/-- All 23 HAW rows of R73. -/
def hawRows : List HawRow := hawReadRows ++ hawWriteRows ++ hawCommandRows

end Sys2Proof
end

