-- ==== Sys2Proof/Config.lean ====
section
/-! DEFINITION. The implementation parameters of one instance (R6, R45): the open ones as data, the fixed ones as constants. -/

namespace Sys2Proof

/-- `TXQ_DEPTH`, an integer from 4 to 8 (R6, D13).  No other depth can be written down. -/
inductive TxqDepth
  | d4
  | d5
  | d6
  | d7
  | d8
deriving DecidableEq, Repr

/-- The number of entries a `TxqDepth` stands for. -/
def TxqDepth.toNat : TxqDepth → Nat
  | .d4 => 4
  | .d5 => 5
  | .d6 => 6
  | .d7 => 7
  | .d8 => 8

/-- The open parameters, fixed for the life of one instance (R45).  They are not machine state: State carries them so that
every statement over all states is a statement over all instances, and every step hands them on unchanged. -/
structure Config where
  /-- `TXQ_DEPTH` (R6). -/
  txqDepth : TxqDepth
  /-- `F_SYS`, the system clock frequency in Hz, an unsigned 32-bit integer (R6, D39). -/
  fSys : BitVec 32
deriving DecidableEq, Repr

/-- The reference configuration: depth 4, as every vector of the spec uses (R6), and the 125 MHz clock of its worked example E1. -/
def Config.reference : Config := { txqDepth := .d4, fSys := 125000000#32 }

/-- `BREAK_BITS` (R6, R83). -/
def Config.breakBits : Nat := 88

/-- `MAB_BITS` (R6, R83). -/
def Config.mabBits : Nat := 8

/-- `START_BITS` (R6, R82). -/
def Config.startBits : Nat := 1

/-- `DATA_BITS` (R6, R82). -/
def Config.dataBits : Nat := 8

/-- `STOP_BITS` (R6, R82). -/
def Config.stopBits : Nat := 2

/-- `BIT_RATE`, in bit/s (R6). -/
def Config.bitRate : Nat := 250000

/-- `D256_MIN`, a divisor of 1.0 (R6, R112). -/
def Config.d256Min : Nat := 256

/-- `D256_MAX`, a divisor of 65535 + 255/256 (R6, R112). -/
def Config.d256Max : Nat := 0xFFFFFF

end Sys2Proof
end

