-- ==== Sys2Proof/Machine/State.lean ====
section
/-! DEFINITION. The state of one DTE instance (R20), the model's own bookkeeping beside it (the fault ledger, the cycle number, the
Host's pending bus cycles, the read data of the cycle just done), and the reset state (R181). -/

namespace Sys2Proof.Machine

/-- A model fault: what `raise Err(E)` and R101 record in the ledger (R9, R162).  A model fault stops nothing. -/
inductive ModelFault
  /-- PUSH while Running into a full queue (R130) -/
  | errTxover
  /-- an access the lifecycle state does not allow (R117, R118, R130, R136) -/
  | errState
  /-- ENABLE while Stopped with `CLKDIV.INT = 0` (R118) -/
  | errClk
  /-- a CMD write with a reserved code (R137) -/
  | errCmd
  /-- a tick in a reserved phase code (R101) -/
  | badPhase
deriving DecidableEq, Repr

/-- One entry of the fault ledger: the fault and the number of the cycle it happened in (R162). -/
structure LedgerEntry where
  cycle : Nat
  err : ModelFault
deriving DecidableEq, Repr

/-- The inputs of one system clock cycle (R38, R39): the reset line, and the host access if `bus_en = 1` (R70). -/
structure BusIn where
  rst : Bool
  haw : Option Haw
deriving DecidableEq, Repr

/-- What ends a polling loop of R80, as a condition on the STATUS word read. -/
inductive WaitCond
  /-- `waitnf`: bit 1 (TXQ_FULL) is 0 -/
  | notFull
  /-- `waitempty`: bit 2 (TXQ_EMPTY) is 1 -/
  | empty
  /-- `waitdone`: bit 2 is 1 and bit 3 (SER_BUSY) is 0 -/
  | done
deriving DecidableEq, Repr

/-- One line of what the outside world will do (R79, R80): the inputs of one cycle, or a polling loop that reads STATUS once per
cycle until its condition is met. -/
inductive HostLine
  | cycle (b : BusIn)
  | poll (c : WaitCond)
deriving DecidableEq, Repr

/-- `CLKDIV`, the clock divisor of the Engine Binding (R24).  Its bits 7:0 are no storage. -/
structure Clkdiv where
  int : BitVec 16
  frac : BitVec 8
deriving DecidableEq, Repr

/-- The state of one instance.  From `running` to `errCmd` it is the spec's own list (R20), element for element.  The other fields
are the model's: the instance's parameters, the Host's side of the bus, and the fault ledger. -/
structure State where
  /-- the parameters of the instance (R45); no step changes them -/
  cfg : Config
  /-- `RUNNING` (R23) -/
  running : Bool
  /-- `CLKDIV.INT` and `CLKDIV.FRAC` (R24) -/
  clkdiv : Clkdiv
  /-- `ACC`, the divider's phase accumulator (R25) -/
  acc : BitVec 25
  /-- `PHASE`, the micro-program counter (R26) -/
  phase : PhaseCode
  /-- `CNT` (R27) -/
  cnt : BitVec 8
  /-- `SHIFT` (R28) -/
  shift : Byte
  /-- `TXQ`, head first; `QLevel` is its length; the cells above the level are absent (R29, R44) -/
  txq : List Byte
  /-- `RPEND` (R30) -/
  rpend : Bool
  /-- `ERR_TXOVER` (R31) -/
  errTxover : Bool
  /-- `ERR_STATE` (R31) -/
  errState : Bool
  /-- `ERR_CLK` (R31) -/
  errClk : Bool
  /-- `ERR_CMD` (R31) -/
  errCmd : Bool
  /-- the Engine makes no further step (R101); set at a tick in a reserved phase, cleared by reset (log entry 2) -/
  stuck : Bool
  /-- the value `bus_rdata` had in the cycle just done (R39); the model's copy of an output (log entry 5) -/
  rdata : Word
  /-- what the outside world will do in the cycles to come; an empty list means no-access cycles (R140, log entry 3) -/
  host : List HostLine
  /-- the number of this cycle (R162, log entry 6) -/
  cycle : Nat
  /-- the fault ledger, oldest entry first (R9, R162); nothing removes an entry -/
  ledger : List LedgerEntry
deriving DecidableEq, Repr

/-- Why a step stops the machine: never.  The block has no traps, no event stops the Engine, every HAW has an effect, and the one stuck
condition of the spec is a state and not a stop (R75, R101, R160), so no constructor is needed. -/
inductive Fault
deriving DecidableEq, Repr

/-- Why a step has no meaning. -/
inductive Refusal
  /-- raised by an arm of exec whose instruction has no meaning yet; safe, since a refused step proves nothing; no arm raises it -/
  | notModelled (mnemonic : String)
deriving DecidableEq, Repr

/-- The state of an instance with parameters `cfg` right after reset (R181), with nothing pending on the bus. -/
def State.resetWith (cfg : Config) : State where
  cfg := cfg
  running := false
  clkdiv := { int := 0#16, frac := 0#8 }
  acc := 0#25
  phase := 0#4
  cnt := 0#8
  shift := 0#8
  txq := []
  rpend := false
  errTxover := false
  errState := false
  errClk := false
  errCmd := false
  stuck := false
  rdata := 0#32
  host := []
  cycle := 0
  ledger := []

/-- The machine right after reset (R181), in the reference configuration (log entry 1). -/
def State.reset : State := State.resetWith Config.reference

end Sys2Proof.Machine
end

