-- ==== Sys2Proof/Machine/Flags.lean ====
section
/-! DEFINITION. The status bits and the words the Host reads: STATUS (R34, R132), CLKDIV (R116), PARAM (R36, R119), and `dreq` (R41).
All are computed from the state; none is stored. -/

namespace Sys2Proof.Machine

/-- The phase codes by name (R26). -/
abbrev phIdle : PhaseCode := 0#4
abbrev phBreak : PhaseCode := 1#4
abbrev phMab : PhaseCode := 2#4
abbrev phStart : PhaseCode := 3#4
abbrev phData : PhaseCode := 4#4
abbrev phStop1 : PhaseCode := 5#4
abbrev phStop2 : PhaseCode := 6#4

/-- `QLevel`, the number of entries in the Transmit Queue (R8, R29). -/
def qLevel (s : State) : Nat := s.txq.length

/-- `TXQ_DEPTH` of this instance (R6). -/
def txqDepth (s : State) : Nat := s.cfg.txqDepth.toNat

/-- `TXQ_FULL`: `QLevel = TXQ_DEPTH` (R29). -/
def txqFull (s : State) : Bool := qLevel s == txqDepth s

/-- `TXQ_EMPTY`: `QLevel = 0` (R29). -/
def txqEmpty (s : State) : Bool := qLevel s == 0

/-- `SER_BUSY`: `PHASE != IDLE or RPEND = 1` (R34). -/
def serBusy (s : State) : Bool := s.phase != phIdle || s.rpend

/-- `dreq`: `RUNNING = 1 and QLevel < TXQ_DEPTH` (R41). -/
def dreq (s : State) : Bool := s.running && decide (qLevel s < txqDepth s)

/-- The STATUS word, from bit 31 down to bit 0 (R34, R132). -/
def statusWord (s : State) : Word :=
  0#12
    ++ BitVec.ofBool s.errCmd ++ BitVec.ofBool s.errClk ++ BitVec.ofBool s.errState ++ BitVec.ofBool s.errTxover
    ++ s.phase
    ++ BitVec.ofNat 4 (qLevel s)
    ++ 0#3
    ++ BitVec.ofBool s.rpend ++ BitVec.ofBool (serBusy s) ++ BitVec.ofBool (txqEmpty s) ++ BitVec.ofBool (txqFull s)
    ++ BitVec.ofBool s.running

/-- The CLKDIV word `{INT, FRAC, 0x00}` (R24, R116). -/
def clkdivWord (s : State) : Word := s.clkdiv.int ++ s.clkdiv.frac ++ 0#8

/-- The PARAM word `{0x00, STOP_BITS, TXQ_DEPTH, MAB_BITS, BREAK_BITS}` (R36, R119). -/
def paramWord (s : State) : Word :=
  0#8 ++ BitVec.ofNat 4 Config.stopBits ++ BitVec.ofNat 4 (txqDepth s) ++ BitVec.ofNat 8 Config.mabBits
    ++ BitVec.ofNat 8 Config.breakBits

/-- Whether a STATUS word ends a polling loop (R80). -/
def WaitCond.met (c : WaitCond) (status : Word) : Bool :=
  match c with
  | .notFull => !status.getLsbD 1
  | .empty => status.getLsbD 2
  | .done => status.getLsbD 2 && !status.getLsbD 3

end Sys2Proof.Machine
end

