-- ==== Sys2Proof/Machine/Ops.lean ====
section
/-! DEFINITION. The shared operations: errors and the fault ledger (R8, R162), the queue (R8), the divider (R110), dispatch (R93), the
line (R40, R91) and the effects of the host accesses. -/

namespace Sys2Proof.Machine

/-- What a meaning or a step answers. -/
abbrev Result := Host.Outcome State Fault Refusal

/-- Go on with `f` if there is a next state. -/
def andThen (r : Result) (f : State → Result) : Result :=
  match r with
  | .next s => f s
  | .fault e => .fault e
  | .refused e => .refused e

/-! ### Errors -/

/-- Append a model fault, with the cycle number, to the ledger (R162). -/
def recordFault (e : ModelFault) (s : State) : State :=
  { s with ledger := s.ledger ++ [{ cycle := s.cycle, err := e }] }

/-- Set the sticky flag of an error (R31); `BAD_PHASE` has none (R101). -/
def setErrFlag (e : ModelFault) (s : State) : State :=
  match e with
  | .errTxover => { s with errTxover := true }
  | .errState => { s with errState := true }
  | .errClk => { s with errClk := true }
  | .errCmd => { s with errCmd := true }
  | .badPhase => s

/-- `raise Err(E)`: set the flag, record the fault, change nothing else (R8, R160, R167).  It is what this block has in place of taking
an exception; there is no return from one (R168). -/
def raiseErr (e : ModelFault) (s : State) : State := recordFault e (setErrFlag e s)

/-- R101: record `BAD_PHASE`, and the Engine makes no further step. -/
def badPhaseStop (s : State) : State := recordFault .badPhase { s with stuck := true }

/-! ### The queue -/

/-- `QPush(b)` (R8). -/
def qPush (b : Byte) (s : State) : State := { s with txq := s.txq ++ [b] }

/-! ### The divider -/

/-- `D256 = {CLKDIV.INT, CLKDIV.FRAC}` (R112). -/
def d256 (s : State) : BitVec 24 := s.clkdiv.int ++ s.clkdiv.frac

/-- The divider step (R110): whether a tick falls in this cycle, and the new accumulator.  The sum is exact and is narrowed to the
accumulator's 25 bits at the end, which loses nothing where `acc < d256` (log entry 7). -/
def divider (acc : BitVec 25) (d : BitVec 24) : Bool × BitVec 25 :=
  if d.toNat ≤ acc.toNat + 256 then (true, BitVec.ofNat 25 (acc.toNat + 256 - d.toNat))
  else (false, BitVec.ofNat 25 (acc.toNat + 256))

/-! ### Dispatch -/

/-- `Dispatch(s)` (R93): a pending restart first, then the head of the queue, then IDLE. -/
def dispatch (s : State) : State :=
  if s.rpend then { s with phase := phBreak, cnt := BitVec.ofNat 8 (Config.breakBits - 1), rpend := false }
  else
    match s.txq with
    | b :: rest => { s with shift := b, txq := rest, phase := phStart }
    | [] => { s with phase := phIdle }

/-! ### The line -/

/-- `LINE(p, n, b)` (R91).  A reserved phase has no level (R101): `none`. -/
def lineLevel (p : PhaseCode) (n : BitVec 8) (b : Byte) : Option Bool :=
  if p = phIdle then some true
  else if p = phBreak then some false
  else if p = phMab then some true
  else if p = phStart then some false
  else if p = phData then some (b.getLsbD (n.extractLsb' 0 3).toNat)
  else if p = phStop1 then some true
  else if p = phStop2 then some true
  else none

/-- The inputs of this cycle: the Host's next line, a polling loop's STATUS read (HAW 0x0400000000), or nothing (R80, R140). -/
def busIn (s : State) : BusIn :=
  match s.host with
  | [] => { rst := false, haw := none }
  | .cycle b :: _ => b
  | .poll _ :: _ => { rst := false, haw := some 0x0400000000#40 }

/-- `dmx_tx` in this cycle (R40): mark in reset and while Stopped, the line of the current phase while Running. -/
def dmxTx (s : State) : Option Bool :=
  if (busIn s).rst || !s.running then some true else lineLevel s.phase s.cnt s.shift

/-! ### Host accesses -/

/-- A read drives `bus_rdata` and changes nothing else (R39, R56). -/
def respond (v : Word) (s : State) : State := { s with rdata := v }

/-- PUSH of `b` (R130). -/
def pushByte (b : Byte) (s : State) : State :=
  if s.running = false then raiseErr .errState s
  else if txqFull s then raiseErr .errTxover s
  else qPush b s

/-- Write 1 to clear the error flags, mask bit 0 for ERR_TXOVER to bit 3 for ERR_CMD (R133). -/
def clearErrors (m : BitVec 4) (s : State) : State :=
  { s with
    errTxover := s.errTxover && !m.getLsbD 0
    errState := s.errState && !m.getLsbD 1
    errClk := s.errClk && !m.getLsbD 2
    errCmd := s.errCmd && !m.getLsbD 3 }

/-- Set the divisor, while Stopped only (R117). -/
def setClkdiv (int : BitVec 16) (frac : BitVec 8) (s : State) : State :=
  if s.running then raiseErr .errState s else { s with clkdiv := { int := int, frac := frac } }

/-- ENABLE, Stopped to Running: the lifecycle is checked first, then the divisor (R118). -/
def enable (s : State) : State :=
  if s.running then raiseErr .errState s
  else if s.clkdiv.int = 0#16 then raiseErr .errClk s
  else { s with running := true, acc := 0#25 }

/-- RESTART: latch the request, while Running only (R136). -/
def restart (s : State) : State :=
  if s.running = false then raiseErr .errState s else { s with rpend := true }

end Sys2Proof.Machine
end

