-- ==== Sys2Proof/Machine/EngineConfiguration.lean ====
section
/-! DEFINITION. The meanings of the configuration accesses: RD_CLKDIV, WR_CLKDIV, CMD_ENABLE, RD_PARAM, WR_PARAM (R116 to R120).  A read's
meaning applies to the state at the start of the cycle, a write's to the state the Engine left (R90). -/

namespace Sys2Proof.Machine

/-- RD_CLKDIV (R116). -/
def execRdClkdiv (s : State) : Result := .next (respond (clkdivWord s) s)

/-- WR_CLKDIV (R117). -/
def execWrClkdiv (int : BitVec 16) (frac : BitVec 8) (s : State) : Result := .next (setClkdiv int frac s)

/-- CMD_ENABLE (R118). -/
def execCmdEnable (s : State) : Result := .next (enable s)

/-- RD_PARAM (R119). -/
def execRdParam (s : State) : Result := .next (respond (paramWord s) s)

/-- WR_PARAM: no state change (R120). -/
def execWrParam (s : State) : Result := .next s

end Sys2Proof.Machine
end

