-- ==== Sys2Proof/Machine/FrameTransmission.lean ====
section
/-! DEFINITION. The meanings of the queue, status, command and reserved accesses (R130 to R139).  A read's meaning applies to the state at
the start of the cycle, a write's to the state the Engine left (R90). -/

namespace Sys2Proof.Machine

/-- PUSH (R130). -/
def execPush (b : Byte) (s : State) : Result := .next (pushByte b s)

/-- RD_TXDATA: reads 0 and pops nothing (R131). -/
def execRdTxdata (s : State) : Result := .next (respond 0#32 s)

/-- RD_STATUS (R132). -/
def execRdStatus (s : State) : Result := .next (respond (statusWord s) s)

/-- WR_STATUS (R133). -/
def execWrStatus (m : BitVec 4) (s : State) : Result := .next (clearErrors m s)

/-- CMD_NOP: no state change (R134). -/
def execCmdNop (s : State) : Result := .next s

/-- RD_CMD: reads 0 (R135). -/
def execRdCmd (s : State) : Result := .next (respond 0#32 s)

/-- CMD_RESTART (R136). -/
def execCmdRestart (s : State) : Result := .next (restart s)

/-- CMD_RESERVED, code 0x3 (R137). -/
def execCmdReserved3 (s : State) : Result := .next (raiseErr .errCmd s)

/-- CMD_RESERVED, codes 0x4 to 0x7 (R137). -/
def execCmdReserved4_7 (s : State) : Result := .next (raiseErr .errCmd s)

/-- CMD_RESERVED, codes 0x8 to 0xF (R137). -/
def execCmdReserved8_15 (s : State) : Result := .next (raiseErr .errCmd s)

/-- RD_RSVD, word index 5 (R138). -/
def execRdRsvd5 (s : State) : Result := .next (respond 0#32 s)

/-- RD_RSVD, word indices 6 and 7 (R138). -/
def execRdRsvd6_7 (s : State) : Result := .next (respond 0#32 s)

/-- RD_RSVD, word indices 8 to 15 (R138). -/
def execRdRsvd8_15 (s : State) : Result := .next (respond 0#32 s)

/-- RD_RSVD, word indices 16 to 31 (R138). -/
def execRdRsvd16_31 (s : State) : Result := .next (respond 0#32 s)

/-- WR_RSVD, word index 5: no state change (R139). -/
def execWrRsvd5 (s : State) : Result := .next s

/-- WR_RSVD, word indices 6 and 7: no state change (R139). -/
def execWrRsvd6_7 (s : State) : Result := .next s

/-- WR_RSVD, word indices 8 to 15: no state change (R139). -/
def execWrRsvd8_15 (s : State) : Result := .next s

/-- WR_RSVD, word indices 16 to 31: no state change (R139). -/
def execWrRsvd16_31 (s : State) : Result := .next s

end Sys2Proof.Machine
end

