-- ==== Sys2Proof/Machine/TimingProgram.lean ====
section
/-! DEFINITION. The meanings of the Timing Program's steps, one per phase, each run at a tick in that phase (R94 to R101). -/

namespace Sys2Proof.Machine

/-- IDLE: a dispatch point (R94). -/
def execTpIdle (s : State) : Result := .next (dispatch s)

/-- BREAK: count down, then MAB (R95). -/
def execTpBreak (s : State) : Result :=
  if s.cnt = 0#8 then .next { s with phase := phMab, cnt := BitVec.ofNat 8 (Config.mabBits - 1) }
  else .next { s with cnt := s.cnt - 1#8 }

/-- MAB: count down, then a dispatch point (R96). -/
def execTpMab (s : State) : Result :=
  if s.cnt = 0#8 then .next (dispatch s) else .next { s with cnt := s.cnt - 1#8 }

/-- START: on to the first data bit (R97). -/
def execTpStart (s : State) : Result := .next { s with phase := phData, cnt := 0#8 }

/-- DATA: on to the next bit, or to the first stop bit after bit 7 (R98). -/
def execTpData (s : State) : Result :=
  if s.cnt = BitVec.ofNat 8 (Config.dataBits - 1) then .next { s with phase := phStop1 }
  else .next { s with cnt := s.cnt + 1#8 }

/-- STOP1: on to the second stop bit; not a dispatch point (R99). -/
def execTpStop1 (s : State) : Result := .next { s with phase := phStop2 }

/-- STOP2: a dispatch point (R100). -/
def execTpStop2 (s : State) : Result := .next (dispatch s)

/-- The reserved phase 0x7 (R101, log entry 2). -/
def execTpReserved7 (s : State) : Result := .next (badPhaseStop s)

/-- The reserved phases 0x8 to 0xF (R101, log entry 2). -/
def execTpReserved8_15 (s : State) : Result := .next (badPhaseStop s)

end Sys2Proof.Machine
end

