-- ==== Sys2Proof/Machine/Dispatch.lean ====
section
/-! DEFINITION. One arm per instruction: the opcode table's rows and their meanings. -/

namespace Sys2Proof.Machine

def exec (i : Instr) (s : State) : Host.Outcome State Fault Refusal :=
  match i with
  | .push _ _ b => Sys2Proof.Machine.execPush b s
  | .rdTxdata _ _ => Sys2Proof.Machine.execRdTxdata s
  | .rdStatus _ _ => Sys2Proof.Machine.execRdStatus s
  | .wrStatus _ _ m _ => Sys2Proof.Machine.execWrStatus m s
  | .rdClkdiv _ _ => Sys2Proof.Machine.execRdClkdiv s
  | .wrClkdiv _ int frac _ => Sys2Proof.Machine.execWrClkdiv int frac s
  | .rdCmd _ _ => Sys2Proof.Machine.execRdCmd s
  | .cmdNop _ _ => Sys2Proof.Machine.execCmdNop s
  | .cmdEnable _ _ => Sys2Proof.Machine.execCmdEnable s
  | .cmdRestart _ _ => Sys2Proof.Machine.execCmdRestart s
  | .cmdReserved3 _ _ => Sys2Proof.Machine.execCmdReserved3 s
  | .cmdReserved4_7 _ _ _ => Sys2Proof.Machine.execCmdReserved4_7 s
  | .cmdReserved8_15 _ _ _ => Sys2Proof.Machine.execCmdReserved8_15 s
  | .rdParam _ _ => Sys2Proof.Machine.execRdParam s
  | .wrParam _ _ => Sys2Proof.Machine.execWrParam s
  | .rdRsvd5 _ _ => Sys2Proof.Machine.execRdRsvd5 s
  | .rdRsvd6_7 _ _ _ => Sys2Proof.Machine.execRdRsvd6_7 s
  | .rdRsvd8_15 _ _ _ => Sys2Proof.Machine.execRdRsvd8_15 s
  | .rdRsvd16_31 _ _ _ => Sys2Proof.Machine.execRdRsvd16_31 s
  | .wrRsvd5 _ _ => Sys2Proof.Machine.execWrRsvd5 s
  | .wrRsvd6_7 _ _ _ => Sys2Proof.Machine.execWrRsvd6_7 s
  | .wrRsvd8_15 _ _ _ => Sys2Proof.Machine.execWrRsvd8_15 s
  | .wrRsvd16_31 _ _ _ => Sys2Proof.Machine.execWrRsvd16_31 s
  | .tpIdle => Sys2Proof.Machine.execTpIdle s
  | .tpBreak => Sys2Proof.Machine.execTpBreak s
  | .tpMab => Sys2Proof.Machine.execTpMab s
  | .tpStart => Sys2Proof.Machine.execTpStart s
  | .tpData => Sys2Proof.Machine.execTpData s
  | .tpStop1 => Sys2Proof.Machine.execTpStop1 s
  | .tpStop2 => Sys2Proof.Machine.execTpStop2 s
  | .tpReserved7 => Sys2Proof.Machine.execTpReserved7 s
  | .tpReserved8_15 _ => Sys2Proof.Machine.execTpReserved8_15 s

end Sys2Proof.Machine
end

