-- ==== Sys2Proof/Machine/Cycle.lean ====
section
/-! DEFINITION. One system clock cycle (R90): reset, the read at the start of the cycle, the Engine's divider and tick step, the host write. -/

namespace Sys2Proof.Machine

/-- `TickStep`: the Timing Program's step, matched on `PHASE` (R76, R90). -/
def tickStep (s : State) : Result := exec (decodePhase s.phase) s

/-- Whether the Engine steps at all: Running (R92), and not stopped by a reserved phase (R101). -/
def engineOn (s : State) : Bool := s.running && !s.stuck

/-- The Engine's step in one cycle: the divider, then on a tick the Timing Program (R90). -/
def engineStep (s : State) : Result :=
  if engineOn s then
    if (divider s.acc (d256 s)).1 then tickStep { s with acc := (divider s.acc (d256 s)).2 }
    else .next { s with acc := (divider s.acc (d256 s)).2 }
  else .next s

/-- `bus_rdata` is 0 in a cycle until a read drives it (R39). -/
def beginCycle (s : State) : State := { s with rdata := 0#32 }

/-- The Host's pending lines after a cycle whose read returned `rdata`: a polling loop stays until its condition is met (R80, R81). -/
def hostAfter (lines : List HostLine) (rdata : Word) : List HostLine :=
  match lines with
  | [] => []
  | .cycle _ :: rest => rest
  | .poll c :: rest => if c.met rdata then rest else .poll c :: rest

/-- The end of a cycle: the cycle number goes on, and so does the Host. -/
def endCycle (s : State) : State := { s with host := hostAfter s.host s.rdata, cycle := s.cycle + 1 }

/-- Reset: every element of R20 takes its reset value; the ledger is not state and is kept (R162, R180). -/
def applyReset (s : State) : State :=
  { State.resetWith s.cfg with host := s.host, cycle := s.cycle, ledger := s.ledger }

/-- A cycle with no host access (R140). -/
def cycleIdle (s : State) : Result := andThen (engineStep (beginCycle s)) fun s1 => .next (endCycle s1)

/-- A cycle with a read: its value is taken from the state before the Engine's step (R59, R90). -/
def cycleRead (w : Haw) (s : State) : Result :=
  andThen (exec (decodeHaw w) (beginCycle s)) fun s0 => andThen (engineStep s0) fun s1 => .next (endCycle s1)

/-- A cycle with a write: it is applied to the state after the Engine's step (R58, R90). -/
def cycleWrite (w : Haw) (s : State) : Result :=
  andThen (engineStep (beginCycle s)) fun s1 => andThen (exec (decodeHaw w) s1) fun s2 => .next (endCycle s2)

/-- `Step(s, rst, bus)` (R90). -/
def cycleStep (s : State) : Result :=
  if (busIn s).rst then .next (endCycle (applyReset s))
  else
    match (busIn s).haw with
    | none => cycleIdle s
    | some w => if hawWr w then cycleWrite w s else cycleRead w s

/-- Put the inputs of one cycle before whatever the Host had pending. -/
def placeBus (b : BusIn) (s : State) : State := { s with host := .cycle b :: s.host }

/-- Make phase code `p` the step the Engine takes in the very next cycle: Running, not stuck, a legal divisor, a tick due, and no host
access in that cycle (log entry 4). -/
def placePhase (p : PhaseCode) (s : State) : State :=
  let int := if s.clkdiv.int = 0#16 then 1#16 else s.clkdiv.int
  let d := (int ++ s.clkdiv.frac : BitVec 24)
  { s with
    running := true
    stuck := false
    clkdiv := { s.clkdiv with int := int }
    acc := if (divider s.acc d).1 then s.acc else BitVec.ofNat 25 (d.toNat - 256)
    phase := p
    host := .cycle { rst := false, haw := none } :: s.host }

/-- Store a word of the opcode table where the next step fetches it: on the bus for a HAW, in PHASE for a phase code (log entry 4). -/
def placeTableWord (nbits w : Nat) (s : State) : State :=
  if nbits ≤ 8 then placePhase (BitVec.ofNat 4 w) s
  else placeBus { rst := false, haw := some (BitVec.ofNat 40 w) } s

end Sys2Proof.Machine
end

