-- ==== Sys2Proof/Machine/Step.lean ====
section
/-! DEFINITION. The step function: one step is one system clock cycle (R5, R10, R90). -/

namespace Sys2Proof.Machine

/-- One system clock cycle. -/
def step (s : State) : Host.Outcome State Fault Refusal := cycleStep s

/-- `s` with a word of the opcode table as what the next step runs (log entry 4). -/
def State.withFetchWord (s : State) (nbits w : Nat) : State := placeTableWord nbits w s

end Sys2Proof.Machine
end

