-- ==== Sys2Proof/Machine/HostProgram.lean ====
section
/-! DEFINITION. The Host's side: the assembly syntax of host programs and its pseudo-instructions (R79, R80), the divisor computation
(R113), and the sequences the spec makes the Host's duty (R121, R146).  Their lines go into `State.host`; the block's behaviour does not
depend on them. -/

namespace Sys2Proof.Machine

/-- The register names of the assembly syntax (R79). -/
inductive RegName
  | txdata
  | status
  | clkdiv
  | cmd
  | param
deriving DecidableEq, Repr

/-- The offset a register name stands for (R32, R79). -/
def RegName.offset : RegName → BitVec 7
  | .txdata => 0x00#7
  | .status => 0x04#7
  | .clkdiv => 0x08#7
  | .cmd => 0x0C#7
  | .param => 0x10#7

/-- `<reg>`: a name or a byte offset from 0x00 to 0x7F (R79). -/
inductive RegArg
  | name (r : RegName)
  | offset (a : BitVec 7)
deriving DecidableEq, Repr

/-- The address of a `<reg>`. -/
def RegArg.addr : RegArg → BitVec 7
  | .name r => r.offset
  | .offset a => a

/-- A line of host assembly: the three real lines (R79), the pseudo-instructions (R80), and a cycle with `rst = 1` (R180). -/
inductive AsmLine
  | rd (r : RegArg)
  | wr (r : RegArg) (v : Word)
  | idle
  | push (b : Byte)
  | nop
  | enable
  | restart
  | setdiv (i : BitVec 16) (f : BitVec 8)
  | clrerr (m : BitVec 4)
  | idles (n : Nat)
  | waitnf
  | waitempty
  | waitdone
  | pushw (b : Byte)
  | reset
deriving DecidableEq, Repr

/-- One access: the HAW `(WR, ADDR, DATA)` in a cycle of its own (R70, R79). -/
def accessLine (wr : Bool) (addr : BitVec 7) (data : Word) : HostLine :=
  .cycle { rst := false, haw := some (mkHaw wr (addr.extractLsb' 2 5) (addr.extractLsb' 0 2) data) }

/-- A no-access cycle (R140). -/
def idleLine : HostLine := .cycle { rst := false, haw := none }

/-- `wr <reg>, <value>` (R79). -/
def wrLine (r : RegName) (v : Word) : HostLine := accessLine true r.offset v

/-- `push b` (R80). -/
def pushLine (b : Byte) : HostLine := wrLine .txdata (b.zeroExtend 32)

/-- What a line assembles to (R79, R80); a read has `DATA = 0`. -/
def assembleLine : AsmLine → List HostLine
  | .rd r => [accessLine false r.addr 0#32]
  | .wr r v => [accessLine true r.addr v]
  | .idle => [idleLine]
  | .push b => [pushLine b]
  | .nop => [wrLine .cmd 0#32]
  | .enable => [wrLine .cmd 1#32]
  | .restart => [wrLine .cmd 2#32]
  | .setdiv i f => [wrLine .clkdiv (i.zeroExtend 32 <<< 16 ||| f.zeroExtend 32 <<< 8)]
  | .clrerr m => [wrLine .status (m.zeroExtend 32 <<< 16)]
  | .idles n => List.replicate n idleLine
  | .waitnf => [.poll .notFull]
  | .waitempty => [.poll .empty]
  | .waitdone => [.poll .done]
  | .pushw b => [.poll .notFull, pushLine b]
  | .reset => [.cycle { rst := true, haw := none }]

/-- A host program, its lines back to back (R81). -/
def assemble (p : List AsmLine) : List HostLine := p.flatMap assembleLine

/-- `DivisorFor(F_SYS)` (R113): the CLKDIV word, or `none` for `ClockOutOfRange`. -/
def divisorFor (fSys : BitVec 32) : Option Word :=
  let d := fSys.toNat * 256 / Config.bitRate
  if d < Config.d256Min ∨ Config.d256Max < d then none else some (BitVec.ofNat 32 d <<< 8)

/-- The bind sequence (R121): compute the divisor, write CLKDIV, ENABLE; no bus access at all if the clock is out of range. -/
def bindProgram (fSys : BitVec 32) : Option (List AsmLine) :=
  (divisorFor fSys).map fun word => [.wr (.name .clkdiv) word, .enable]

/-- The universe sequence (R146), for a universe of any length: one restart, the start code 0x00, the channels in index order, and the wait
for the wire to be at rest (the stronger wait of R145). -/
def universeProgram (channels : List Byte) : List AsmLine :=
  .restart :: .pushw 0#8 :: (channels.map AsmLine.pushw ++ [.waitdone])

/-- The state with a host program as what the outside world will do next. -/
def loadProgram (p : List AsmLine) (s : State) : State := { s with host := assemble p }

end Sys2Proof.Machine
end

