-- ==== Sys2Proof/Machine/RegisterMap.lean ====
section
/-! DEFINITION. The host register window by offset (R32, R50 to R53): the register-indexed read and write that R90 calls `ReadValue` and
`WriteEffect`, and the primitives `MemRead(addr, 4)` and `MemWrite(addr, 4, v)` (R8).  The instruction meanings do not use them: that the
two views agree is a claim. -/

namespace Sys2Proof.Machine

/-- `ReadValue(s, REG)`: the read column of R32. -/
def readValue (s : State) (reg : BitVec 5) : Word :=
  if reg = 1#5 then statusWord s
  else if reg = 2#5 then clkdivWord s
  else if reg = 4#5 then paramWord s
  else 0#32

/-- A write to CMD, by its code (R35). -/
def commandEffect (s : State) (code : BitVec 4) : State :=
  if code = 0#4 then s
  else if code = 1#4 then enable s
  else if code = 2#4 then restart s
  else raiseErr .errCmd s

/-- `WriteEffect(s, REG, wdata)`: the write column of R32. -/
def writeEffect (s : State) (reg : BitVec 5) (wdata : Word) : State :=
  if reg = 0#5 then pushByte (opByte wdata) s
  else if reg = 1#5 then clearErrors (opClearMask wdata) s
  else if reg = 2#5 then setClkdiv (opInt wdata) (opFrac wdata) s
  else if reg = 3#5 then commandEffect s (opCode wdata)
  else s

/-- `MemRead(addr, 4)`: the word that `addr[6:2]` selects (R8, R52). -/
def memRead (s : State) (addr : BitVec 7) : Word := readValue s (addr.extractLsb' 2 5)

/-- `MemWrite(addr, 4, v)` (R8, R52). -/
def memWrite (s : State) (addr : BitVec 7) (v : Word) : State := writeEffect s (addr.extractLsb' 2 5) v

/-- `bus_rdata` in this cycle, from the state at its start: 0 in reset and in cycles with no read (R39, R59, R90). -/
def busRdata (s : State) : Word :=
  if (busIn s).rst then 0#32
  else
    match (busIn s).haw with
    | none => 0#32
    | some w => if hawWr w then 0#32 else memRead s (hawAddr w)

end Sys2Proof.Machine
end

