-- ==== Sys2Proof/Machine/Trace.lean ====
section
/-! DEFINITION. What a run shows (R10): the wire trace and the read data, cycle by cycle; the same at the level of ticks; and the bytes that
enter and leave the queue. -/

namespace Sys2Proof.Machine

/-- `n` cycles. -/
def run : Nat → State → Result
  | 0, s => .next s
  | n + 1, s => andThen (step s) (run n)

/-- A list of one observation per cycle, taken on the state at the start of each. -/
def traceOf {α : Type} (f : State → α) : Nat → State → List α
  | 0, _ => []
  | n + 1, s =>
    f s :: (match step s with
      | .next t => traceOf f n t
      | _ => [])

/-- The wire trace: the value of `dmx_tx` in each cycle (R10, R40). -/
def wireTrace (n : Nat) (s : State) : List (Option Bool) := traceOf dmxTx n s

/-- The `bus_rdata` of each cycle (R10). -/
def rdataTrace (n : Nat) (s : State) : List Word := traceOf busRdata n s

/-- The level the Timing Program drives in the current state (R91). -/
def lineOf (s : State) : Option Bool := lineLevel s.phase s.cnt s.shift

/-- `n` tick steps, with nothing between them (R103). -/
def tickRun : Nat → State → Result
  | 0, s => .next s
  | n + 1, s => andThen (tickStep s) (tickRun n)

/-- The levels of `n` tick intervals, from the one the state is in (R103). -/
def lineTrace : Nat → State → List (Option Bool)
  | 0, _ => []
  | n + 1, s =>
    lineOf s :: (match tickStep s with
      | .next t => lineTrace n t
      | _ => [])

/-- A character on the wire: the start bit, the data bits from bit 0 up, the two stop bits (R82). -/
def character (b : Byte) : List Bool :=
  List.replicate Config.startBits false
    ++ (List.range Config.dataBits).map (fun k => b.getLsbD k)
    ++ List.replicate Config.stopBits true

/-- A break and a mark-after-break (R83). -/
def breakAndMab : List Bool := List.replicate Config.breakBits false ++ List.replicate Config.mabBits true

/-- A tick falls in this cycle (R90, R110). -/
def tickNow (s : State) : Bool := !(busIn s).rst && engineOn s && (divider s.acc (d256 s)).1

/-- The phase is one that ends at its next tick with a dispatch: IDLE, the last tick of MAB, STOP2 (R93). -/
def atDispatchPoint (s : State) : Bool := s.phase == phIdle || (s.phase == phMab && s.cnt == 0#8) || s.phase == phStop2

/-- The byte the Engine takes from the queue in this cycle, if any (R93). -/
def poppedNow (s : State) : List Byte := if tickNow s && atDispatchPoint s && !s.rpend then s.txq.take 1 else []

/-- What a dispatch starts on the wire. -/
inductive Started
  /-- a break, with its mark-after-break -/
  | brk
  /-- the character of a byte -/
  | char (b : Byte)
deriving DecidableEq, Repr

/-- What the Engine starts at a dispatch in this cycle, if anything: a pending break first, else the head of the queue (R93). -/
def startedNow (s : State) : List Started :=
  if tickNow s && atDispatchPoint s then
    if s.rpend then [.brk] else (s.txq.take 1).map .char
  else []

/-- The byte a PUSH presents in this cycle, if any (R130). -/
def pushedNow (s : State) : List Byte :=
  if (busIn s).rst then []
  else
    match (busIn s).haw with
    | none => []
    | some w => if hawWr w && hawReg w == 0#5 then [opByte (hawData w)] else []

/-- The byte accepted into the queue in this cycle, if any: Running, and the queue not full after the Engine's pop (R61, R130). -/
def acceptedNow (s : State) : List Byte :=
  if s.running && s.txq.length - (poppedNow s).length != txqDepth s then pushedNow s else []

/-- The bytes taken from the queue in `n` cycles, in order. -/
def poppedTrace (n : Nat) (s : State) : List Byte := (traceOf poppedNow n s).flatten

/-- The breaks and characters started in `n` cycles, in order. -/
def startedTrace (n : Nat) (s : State) : List Started := (traceOf startedNow n s).flatten

/-- The bytes accepted into the queue in `n` cycles, in order. -/
def acceptedTrace (n : Nat) (s : State) : List Byte := (traceOf acceptedNow n s).flatten

end Sys2Proof.Machine
end

