-- ==== Sys2Proof/Safety.lean ====
section
/-! DEFINITION. The terms claims use: the invariant of the reachable states, the states at rest, the runs without a model fault, and the
premises about the Host. -/

namespace Sys2Proof.Machine

/-- The invariant of every reachable state. -/
structure State.Inv (s : State) : Prop where
  /-- R29: the level never exceeds the depth -/
  level_le : qLevel s ≤ txqDepth s
  /-- R26, R77: a reserved phase code is never reached -/
  phase_le : s.phase.toNat ≤ 6
  /-- R101: so the Engine is never stuck -/
  not_stuck : s.stuck = false
  /-- R112, R118: a Running block has a legal divisor -/
  divisor_legal : s.running = true → Config.d256Min ≤ (d256 s).toNat
  /-- R25: `ACC < D256` while Running -/
  acc_lt : s.running = true → s.acc.toNat < (d256 s).toNat
  /-- R118: while Stopped the queue is empty, PHASE is IDLE and no restart is pending -/
  stopped : s.running = false → s.txq = [] ∧ s.phase = phIdle ∧ s.rpend = false
  /-- R98: CNT is the index of a data bit in DATA -/
  data_cnt : s.phase = phData → s.cnt.toNat ≤ 7
  /-- R95: at most 87 ticks are left in BREAK -/
  break_cnt : s.phase = phBreak → s.cnt.toNat ≤ 87
  /-- R96: at most 7 ticks are left in MAB -/
  mab_cnt : s.phase = phMab → s.cnt.toNat ≤ 7

/-- The ledger accounts for the sticky flags (R31, R162): a set flag has its entry, and no entry is of a later cycle. -/
structure State.LedgerInv (s : State) : Prop where
  txover : s.errTxover = true → ∃ e ∈ s.ledger, e.err = .errTxover
  state : s.errState = true → ∃ e ∈ s.ledger, e.err = .errState
  clk : s.errClk = true → ∃ e ∈ s.ledger, e.err = .errClk
  cmd : s.errCmd = true → ∃ e ∈ s.ledger, e.err = .errCmd
  past : ∀ e ∈ s.ledger, e.cycle < s.cycle

/-- The wire is at rest (R141). -/
def State.atRest (s : State) : Prop := s.running = true ∧ s.phase = phIdle ∧ s.rpend = false ∧ s.txq = []

/-- A run of `n` cycles from `s` that records no model fault (R9, R162). -/
def faultFree (n : Nat) (s : State) : Prop := ∃ t, run n s = .next t ∧ t.ledger = s.ledger

/-- A line that does not assert reset. -/
def HostLine.noReset : HostLine → Bool
  | .cycle b => !b.rst
  | .poll _ => true

/-- A line that neither asserts reset nor writes CMD code 2. -/
def HostLine.quiet : HostLine → Bool
  | .cycle b =>
    !b.rst && (match b.haw with
      | none => true
      | some w => !(hawWr w && hawReg w == 3#5 && opCode (hawData w) == 2#4))
  | .poll _ => true

/-- No reset is pending on the Host's side. -/
def State.noReset (s : State) : Prop := ∀ l ∈ s.host, l.noReset = true

/-- No reset and no RESTART is pending on the Host's side. -/
def State.quiet (s : State) : Prop := ∀ l ∈ s.host, l.quiet = true

end Sys2Proof.Machine
end

