-- ==== Sys2Proof/Certificates/Slice0/Obligations.lean ====
section
/-! DEFINITION. The statements for the provers: what the rules of the spec say the block does. -/

open Sys2Proof Sys2Proof.Machine

/-! ### Encoding -/

/-- Words written out bit by bit from the patterns of R73 and R76, at least one per family, decode to what they stand for. -/
def Obligations.SpecWordsDecode : Prop :=
  decodeHaw 0b1000000000010010001101000101011001000001#40 = .push 0#2 0x123456#24 0x41#8 ∧
  decodeHaw 0b1000010000000000000000010000000000000000#40 = .wrStatus 0#2 0#12 1#4 0#16 ∧
  decodeHaw 0b1000100000000001111101000000000011111111#40 = .wrClkdiv 0#2 500#16 0#8 0xFF#8 ∧
  decodeHaw 0b1000110000000000000000000000000000000001#40 = .cmdEnable 0#2 0#28 ∧
  decodeHaw 0b1000110000000000000000000000000000010010#40 = .cmdRestart 0#2 1#28 ∧
  decodeHaw 0b1000110000000000000000000000000000000111#40 = .cmdReserved4_7 0#2 0#28 7#4 ∧
  decodeHaw 0b0000010000000000000000000000000000000000#40 = .rdStatus 0#2 0#32 ∧
  decodeHaw 0b0111111100000000000000000000000000000000#40 = .rdRsvd16_31 31#5 3#2 0#32 ∧
  decodeHaw 0b1001110000000000000000000000000000000001#40 = .wrRsvd6_7 7#5 0#2 1#32 ∧
  decode [0x04#8] = .ok .tpData ∧
  decode [0x0F#8] = .ok (.tpReserved8_15 15#4) ∧
  decode [0x10#8] = .error (.phaseTooWide 0x10#8)

/-- Decoding the bytes of a well-formed instruction gives it back, every operand at every value (the byte order is the model's, log 4). -/
def Obligations.DecodeOfEncode : Prop :=
  ∀ i : Instr, i.wf = true → decode (bytesOfTable (encode i)) = .ok i

/-- Whatever bytes decode to an instruction are the bytes of that instruction, and it is well formed: decoding is one to one. -/
def Obligations.EncodeOfDecode : Prop :=
  ∀ (bs : List Byte) (i : Instr), decode bs = .ok i → i.wf = true ∧ bytesOfTable (encode i) = bs

/-- Each HAW matches exactly one row of the decoder table, and it is the row of the instruction the decoder reads (R73). -/
def Obligations.EachHawMatchesExactlyOneRow : Prop :=
  ∀ w : Haw, ∃ r : HawRow, hawRows.filter (fun r => r.matches w) = [r] ∧ r.mnemonic = (decodeHaw w).mnemonic

/-- The pseudo-instructions assemble to the accesses they stand for, as the decoder reads them (R80). -/
def Obligations.PseudoInstructionsAssemble : Prop :=
  (∀ b : Byte, ∃ w, assembleLine (.push b) = [.cycle { rst := false, haw := some w }] ∧ decodeHaw w = .push 0#2 0#24 b) ∧
  (∃ w, assembleLine .nop = [.cycle { rst := false, haw := some w }] ∧ decodeHaw w = .cmdNop 0#2 0#28) ∧
  (∃ w, assembleLine .enable = [.cycle { rst := false, haw := some w }] ∧ decodeHaw w = .cmdEnable 0#2 0#28) ∧
  (∃ w, assembleLine .restart = [.cycle { rst := false, haw := some w }] ∧ decodeHaw w = .cmdRestart 0#2 0#28) ∧
  (∀ (i : BitVec 16) (f : BitVec 8), ∃ w, assembleLine (.setdiv i f) = [.cycle { rst := false, haw := some w }] ∧
    decodeHaw w = .wrClkdiv 0#2 i f 0#8) ∧
  (∀ m : BitVec 4, ∃ w, assembleLine (.clrerr m) = [.cycle { rst := false, haw := some w }] ∧
    decodeHaw w = .wrStatus 0#2 0#12 m 0#16) ∧
  (∀ b : Byte, assembleLine (.pushw b) = assembleLine .waitnf ++ assembleLine (.push b)) ∧
  (∀ n : Nat, assembleLine (.idles n) = List.replicate n idleLine)

/-! ### The host accesses: results, completion and frames -/

/-- A read of TXDATA, CMD or a reserved offset answers 0 and changes nothing else (R131, R135, R138). -/
def Obligations.WriteOnlyAndReservedReadsAnswerZero : Prop :=
  ∀ (s : State) (reg : BitVec 5) (aa : BitVec 2) (data : Word),
    exec (.rdTxdata aa data) s = .next { s with rdata := 0#32 } ∧
    exec (.rdCmd aa data) s = .next { s with rdata := 0#32 } ∧
    exec (.rdRsvd5 aa data) s = .next { s with rdata := 0#32 } ∧
    exec (.rdRsvd6_7 reg aa data) s = .next { s with rdata := 0#32 } ∧
    exec (.rdRsvd8_15 reg aa data) s = .next { s with rdata := 0#32 } ∧
    exec (.rdRsvd16_31 reg aa data) s = .next { s with rdata := 0#32 }

/-- A read of STATUS answers a word whose every field is as R132 says, and changes nothing else. -/
def Obligations.StatusReadAnswersEveryField : Prop :=
  ∀ (s : State) (aa : BitVec 2) (data : Word), ∃ v : Word,
    exec (.rdStatus aa data) s = .next { s with rdata := v } ∧
    v.extractLsb' 20 12 = 0#12 ∧
    v.getLsbD 19 = s.errCmd ∧ v.getLsbD 18 = s.errClk ∧ v.getLsbD 17 = s.errState ∧ v.getLsbD 16 = s.errTxover ∧
    v.extractLsb' 12 4 = s.phase ∧
    v.extractLsb' 8 4 = BitVec.ofNat 4 s.txq.length ∧
    v.extractLsb' 5 3 = 0#3 ∧
    v.getLsbD 4 = s.rpend ∧
    (v.getLsbD 3 = true ↔ s.phase ≠ 0#4 ∨ s.rpend = true) ∧
    (v.getLsbD 2 = true ↔ s.txq = []) ∧
    (v.getLsbD 1 = true ↔ s.txq.length = s.cfg.txqDepth.toNat) ∧
    v.getLsbD 0 = s.running

/-- A read of CLKDIV answers `INT`, `FRAC` and a zero byte, in either lifecycle state, and changes nothing else (R116). -/
def Obligations.ClkdivReadAnswersIntAndFrac : Prop :=
  ∀ (s : State) (aa : BitVec 2) (data : Word), ∃ v : Word,
    exec (.rdClkdiv aa data) s = .next { s with rdata := v } ∧
    v.extractLsb' 16 16 = s.clkdiv.int ∧ v.extractLsb' 8 8 = s.clkdiv.frac ∧ v.extractLsb' 0 8 = 0#8

/-- A read of PARAM answers the instance's parameters, and changes nothing else; at depth 4 the word is 0x00240858 (R119). -/
def Obligations.ParamReadAnswersTheParameters : Prop :=
  ∀ (s : State) (aa : BitVec 2) (data : Word), ∃ v : Word,
    exec (.rdParam aa data) s = .next { s with rdata := v } ∧
    v.extractLsb' 24 8 = 0#8 ∧ v.extractLsb' 20 4 = 2#4 ∧ (v.extractLsb' 16 4).toNat = s.cfg.txqDepth.toNat ∧
    v.extractLsb' 8 8 = 8#8 ∧ v.extractLsb' 0 8 = 88#8 ∧
    (s.cfg.txqDepth = .d4 → v = 0x00240858#32)

/-- PUSH: ERR_STATE while Stopped, ERR_TXOVER while the queue is full, else the byte goes to the tail; nothing else changes (R130). -/
def Obligations.PushEnqueuesOrRaises : Prop :=
  ∀ (s : State) (aa : BitVec 2) (hi : BitVec 24) (b : Byte),
    (s.running = false →
      exec (.push aa hi b) s =
        .next { s with errState := true, ledger := s.ledger ++ [{ cycle := s.cycle, err := .errState }] }) ∧
    (s.running = true → s.txq.length = s.cfg.txqDepth.toNat →
      exec (.push aa hi b) s =
        .next { s with errTxover := true, ledger := s.ledger ++ [{ cycle := s.cycle, err := .errTxover }] }) ∧
    (s.running = true → s.txq.length ≠ s.cfg.txqDepth.toNat →
      exec (.push aa hi b) s = .next { s with txq := s.txq ++ [b] })

/-- WR_STATUS clears the error flags whose mask bit is 1, keeps the others, and changes nothing else, the ledger included (R133). -/
def Obligations.StatusWriteClearsSelectedFlags : Prop :=
  ∀ (s : State) (aa : BitVec 2) (hi : BitVec 12) (m : BitVec 4) (lo : BitVec 16),
    exec (.wrStatus aa hi m lo) s = .next { s with
      errTxover := if m.getLsbD 0 then false else s.errTxover
      errState := if m.getLsbD 1 then false else s.errState
      errClk := if m.getLsbD 2 then false else s.errClk
      errCmd := if m.getLsbD 3 then false else s.errCmd }

/-- WR_CLKDIV: sets the divisor while Stopped, `INT = 0` included; raises ERR_STATE and changes nothing else while Running (R117). -/
def Obligations.ClkdivWriteSetsOrRaises : Prop :=
  ∀ (s : State) (aa : BitVec 2) (int : BitVec 16) (frac lo : BitVec 8),
    (s.running = false →
      exec (.wrClkdiv aa int frac lo) s = .next { s with clkdiv := { int := int, frac := frac } }) ∧
    (s.running = true →
      exec (.wrClkdiv aa int frac lo) s =
        .next { s with errState := true, ledger := s.ledger ++ [{ cycle := s.cycle, err := .errState }] })

/-- ENABLE: ERR_STATE while Running, checked first; ERR_CLK while Stopped with `INT = 0`; else Running with ACC = 0.  The Engine does not
step before the ENABLE of its cycle, so its first divider step is in the next one, and in a state a run reaches a successful ENABLE finds
the queue empty, PHASE at IDLE, no restart pending and the line at mark, and keeps them so (R118). -/
def Obligations.EnableRunsOrRaises : Prop :=
  ∀ (s : State) (aa : BitVec 2) (hi : BitVec 28),
    (s.running = true →
      exec (.cmdEnable aa hi) s =
        .next { s with errState := true, ledger := s.ledger ++ [{ cycle := s.cycle, err := .errState }] }) ∧
    (s.running = false → s.clkdiv.int = 0#16 →
      exec (.cmdEnable aa hi) s =
        .next { s with errClk := true, ledger := s.ledger ++ [{ cycle := s.cycle, err := .errClk }] }) ∧
    (s.running = false → s.clkdiv.int ≠ 0#16 →
      exec (.cmdEnable aa hi) s = .next { s with running := true, acc := 0#25 }) ∧
    (s.running = false → engineStep s = .next s) ∧
    (s.Inv → s.running = false → s.clkdiv.int ≠ 0#16 →
      ∃ t, exec (.cmdEnable aa hi) s = .next t ∧ t.txq = [] ∧ t.phase = phIdle ∧ t.rpend = false ∧
        dmxTx s = some true ∧ dmxTx t = some true)

/-- RESTART: sets RPEND while Running (again, if it was set), so STATUS[4] and STATUS[3] read 1; ERR_STATE while Stopped; nothing else
changes, the queue included (R136). -/
def Obligations.RestartLatchesOrRaises : Prop :=
  ∀ (s : State) (aa : BitVec 2) (hi : BitVec 28),
    (s.running = true → exec (.cmdRestart aa hi) s = .next { s with rpend := true } ∧
      (statusWord { s with rpend := true }).getLsbD 4 = true ∧ (statusWord { s with rpend := true }).getLsbD 3 = true) ∧
    (s.running = false →
      exec (.cmdRestart aa hi) s =
        .next { s with errState := true, ledger := s.ledger ++ [{ cycle := s.cycle, err := .errState }] })

/-- The reserved command codes raise ERR_CMD in either lifecycle state and change nothing else (R137). -/
def Obligations.ReservedCommandsRaise : Prop :=
  ∀ (s : State) (aa : BitVec 2) (hi : BitVec 28) (code : BitVec 4) (i : Instr),
    i = .cmdReserved3 aa hi ∨ i = .cmdReserved4_7 aa hi code ∨ i = .cmdReserved8_15 aa hi code →
    exec i s = .next { s with errCmd := true, ledger := s.ledger ++ [{ cycle := s.cycle, err := .errCmd }] }

/-- CMD_NOP and the writes to PARAM and to the reserved offsets change nothing at all (R120, R134, R139). -/
def Obligations.IgnoredWritesChangeNothing : Prop :=
  ∀ (s : State) (reg : BitVec 5) (aa : BitVec 2) (hi : BitVec 28) (data : Word),
    exec (.cmdNop aa hi) s = .next s ∧
    exec (.wrParam aa data) s = .next s ∧
    exec (.wrRsvd5 aa data) s = .next s ∧
    exec (.wrRsvd6_7 reg aa data) s = .next s ∧
    exec (.wrRsvd8_15 reg aa data) s = .next s ∧
    exec (.wrRsvd16_31 reg aa data) s = .next s

/-- Every HAW does what the register map says of its offset: a read answers `MemRead(ADDR, 4)` and changes nothing else, a write does
`MemWrite(ADDR, 4, DATA)` (R8, R32, R52). -/
def Obligations.HostAccessFollowsTheRegisterMap : Prop :=
  ∀ (w : Haw) (s : State),
    exec (decodeHaw w) s =
      .next (if hawWr w then memWrite s (hawAddr w) (hawData w) else { s with rdata := memRead s (hawAddr w) })

/-! ### The Timing Program's steps -/

/-- IDLE, STOP2 and the last tick of MAB dispatch: a pending restart first, then the head of the queue, then IDLE (R93, R94, R96, R100). -/
def Obligations.DispatchPointsDispatch : Prop :=
  ∀ (s : State) (i : Instr), i = .tpIdle ∨ i = .tpStop2 ∨ (i = .tpMab ∧ s.cnt = 0#8) →
    (s.rpend = true → exec i s = .next { s with phase := 1#4, cnt := 87#8, rpend := false }) ∧
    (∀ b rest, s.rpend = false → s.txq = b :: rest → exec i s = .next { s with phase := 3#4, shift := b, txq := rest }) ∧
    (s.rpend = false → s.txq = [] → exec i s = .next { s with phase := 0#4 })

/-- BREAK and MAB count down one tick at a time; BREAK ends in MAB with 8 ticks to go, and MAB ends with a dispatch (R95, R96). -/
def Obligations.BreakAndMabCountDown : Prop :=
  ∀ s : State,
    (s.cnt ≠ 0#8 → exec .tpBreak s = .next { s with cnt := s.cnt - 1#8 }) ∧
    (s.cnt = 0#8 → exec .tpBreak s = .next { s with phase := 2#4, cnt := 7#8 }) ∧
    (s.cnt ≠ 0#8 → exec .tpMab s = .next { s with cnt := s.cnt - 1#8 }) ∧
    (s.cnt = 0#8 → exec .tpMab s = .next (dispatch s))

/-- START, DATA and STOP1 go through the character, without a look at the queue or at RPEND (R97, R98, R99). -/
def Obligations.CharacterStepsAdvance : Prop :=
  ∀ s : State,
    exec .tpStart s = .next { s with phase := 4#4, cnt := 0#8 } ∧
    (s.cnt ≠ 7#8 → exec .tpData s = .next { s with cnt := s.cnt + 1#8 }) ∧
    (s.cnt = 7#8 → exec .tpData s = .next { s with phase := 5#4 }) ∧
    exec .tpStop1 s = .next { s with phase := 6#4 }

/-- A tick in a reserved phase records `BAD_PHASE`, changes nothing else and sticks the Engine; a stuck Engine does not step, and stays so in
every cycle without reset (R5, R101; that it lasts until reset is the model's reading, log 2); such a state is never at rest; and the line
of a reserved phase has no level (R101). -/
def Obligations.ReservedPhaseSticks : Prop :=
  (∀ (s : State) (code : PhaseCode) (i : Instr), i = .tpReserved7 ∨ i = .tpReserved8_15 code →
    exec i s = .next { s with stuck := true, ledger := s.ledger ++ [{ cycle := s.cycle, err := .badPhase }] }) ∧
  (∀ s : State, s.stuck = true → engineStep s = .next s) ∧
  (∀ s t : State, s.stuck = true → (busIn s).rst = false → step s = .next t → t.stuck = true) ∧
  (∀ s : State, 7 ≤ s.phase.toNat → ¬ s.atRest) ∧
  (∀ (p : PhaseCode) (n : BitVec 8) (b : Byte), 7 ≤ p.toNat → lineLevel p n b = none)

/-- The level of each phase (R91). -/
def Obligations.LineLevelOfEachPhase : Prop :=
  ∀ (n : BitVec 8) (b : Byte),
    lineLevel 0#4 n b = some true ∧ lineLevel 1#4 n b = some false ∧ lineLevel 2#4 n b = some true ∧
    lineLevel 3#4 n b = some false ∧ lineLevel 4#4 n b = some (b.getLsbD (n.toNat % 8)) ∧
    lineLevel 5#4 n b = some true ∧ lineLevel 6#4 n b = some true

/-- While Running and out of reset, the line is low exactly in BREAK, in START and in DATA with a 0 data bit; in reset and while Stopped it
is at mark (R40, R105). -/
def Obligations.LineLowOnlyWhereTheFrameIsLow : Prop :=
  ∀ s : State, s.Inv →
    ((busIn s).rst = true ∨ s.running = false → dmxTx s = some true) ∧
    ((busIn s).rst = false → s.running = true →
      (dmxTx s = some false ↔
        s.phase = phBreak ∨ s.phase = phStart ∨ (s.phase = phData ∧ s.shift.getLsbD s.cnt.toNat = false)) ∧
      (dmxTx s = some false ∨ dmxTx s = some true))

/-! ### One cycle -/

/-- A step is one cycle of R90 around the decoded instruction: a write runs after the Engine's step, a read before it, a tick runs the
instruction of the phase; and withFetchWord puts a table word where the next step fetches it (log 4). -/
def Obligations.StepRunsTheDecodedInstruction : Prop :=
  (∀ (s s1 s2 : State) (w : Haw), busIn s = { rst := false, haw := some w } → hawWr w = true →
    engineStep (beginCycle s) = .next s1 → exec (decodeHaw w) s1 = .next s2 → step s = .next (endCycle s2)) ∧
  (∀ (s s0 s1 : State) (w : Haw), busIn s = { rst := false, haw := some w } → hawWr w = false →
    exec (decodeHaw w) (beginCycle s) = .next s0 → engineStep s0 = .next s1 → step s = .next (endCycle s1)) ∧
  (∀ s s1 : State, busIn s = { rst := false, haw := none } →
    engineStep (beginCycle s) = .next s1 → step s = .next (endCycle s1)) ∧
  (∀ s : State, engineOn s = true → (divider s.acc (d256 s)).1 = true →
    engineStep s = exec (decodePhase s.phase) { s with acc := (divider s.acc (d256 s)).2 }) ∧
  (∀ (s : State) (w : Haw), busIn (s.withFetchWord 40 w.toNat) = { rst := false, haw := some w }) ∧
  (∀ (s : State) (p : PhaseCode), (s.withFetchWord 8 p.toNat).phase = p ∧ tickNow (s.withFetchWord 8 p.toNat) = true)

/-- Nothing stops the machine: every state has a next state, whatever the bus presents (R160). -/
def Obligations.EveryCycleCompletes : Prop :=
  ∀ s : State, ∃ t, step s = .next t

/-- In a cycle with `rst = 1` every state element takes its reset value, an access is ignored, `bus_rdata` is 0, the line is at mark, and the
ledger is kept (R180). -/
def Obligations.ResetCycleResets : Prop :=
  ∀ s : State, (busIn s).rst = true → ∃ t, step s = .next t ∧
    t.running = false ∧ t.clkdiv = { int := 0#16, frac := 0#8 } ∧ t.acc = 0#25 ∧ t.phase = 0#4 ∧ t.cnt = 0#8 ∧ t.shift = 0#8 ∧
    t.txq = [] ∧ t.rpend = false ∧
    t.errTxover = false ∧ t.errState = false ∧ t.errClk = false ∧ t.errCmd = false ∧
    t.rdata = 0#32 ∧ busRdata s = 0#32 ∧ dmxTx s = some true ∧ t.ledger = s.ledger

/-- The reset values, with what STATUS, PARAM, `dmx_tx` and `dreq` show of them (R181); that State.reset is the instance of depth 4 is the
model's choice (log 1). -/
def Obligations.ResetValues : Prop :=
  ∀ cfg : Config,
    (State.resetWith cfg).running = false ∧ (State.resetWith cfg).clkdiv = { int := 0#16, frac := 0#8 } ∧
    clkdivWord (State.resetWith cfg) = 0#32 ∧
    (State.resetWith cfg).acc = 0#25 ∧ (State.resetWith cfg).phase = 0#4 ∧ (State.resetWith cfg).cnt = 0#8 ∧
    (State.resetWith cfg).shift = 0#8 ∧ (State.resetWith cfg).txq.length = 0 ∧ (State.resetWith cfg).rpend = false ∧
    (State.resetWith cfg).errTxover = false ∧ (State.resetWith cfg).errState = false ∧
    (State.resetWith cfg).errClk = false ∧ (State.resetWith cfg).errCmd = false ∧
    statusWord (State.resetWith cfg) = 0x00000004#32 ∧
    (cfg.txqDepth = .d4 → paramWord (State.resetWith cfg) = 0x00240858#32) ∧
    dmxTx (State.resetWith cfg) = some true ∧ dreq (State.resetWith cfg) = false ∧
    State.reset.cfg.txqDepth = .d4

/-- The read data of a cycle is computed from the state at its start, before the Engine's step and before any write (R39, R59). -/
def Obligations.ReadDataIsOfTheCycleStart : Prop :=
  ∀ s t : State, step s = .next t → t.rdata = busRdata s

/-- A cycle with a read leaves exactly the state that a cycle with no access leaves, but for the read data (R56). -/
def Obligations.ReadsHaveNoSideEffects : Prop :=
  ∀ (s : State) (w : Haw) (rest : List HostLine), hawWr w = false →
    ∃ t, step { s with host := .cycle { rst := false, haw := some w } :: rest } = .next t ∧
      step { s with host := idleLine :: rest } = .next { t with rdata := 0#32 }

/-- A cycle with no access returns 0 as read data and changes only what the Engine's own step changes, beside the Host's pending lines and
the cycle number, which are the model's (R140). -/
def Obligations.NoAccessCycleIsTheEngineStep : Prop :=
  ∀ s t : State, busIn s = { rst := false, haw := none } → step s = .next t →
    ∃ u, engineStep s = .next u ∧ t = { u with rdata := 0#32, host := s.host.tail, cycle := s.cycle + 1 }

/-- A polling loop reads STATUS in each cycle and goes on to the next line exactly when the word read meets its condition (R80). -/
def Obligations.PollingLoopReadsStatusUntilMet : Prop :=
  ∀ (s t : State) (c : WaitCond) (rest : List HostLine), s.host = .poll c :: rest → step s = .next t →
    t.rdata = statusWord s ∧
    t.host = (if (match c with
      | .notFull => !txqFull s
      | .empty => txqEmpty s
      | .done => txqEmpty s && !serBusy s) then rest else s.host)

/-- While Stopped the Engine does not step: no tick falls, and PHASE, CNT, SHIFT, the queue and RPEND keep their values; ACC changes only to
0, by an ENABLE (R92). -/
def Obligations.StoppedEngineStandsStill : Prop :=
  ∀ s t : State, s.running = false → (busIn s).rst = false → step s = .next t →
    tickNow s = false ∧ t.phase = s.phase ∧ t.cnt = s.cnt ∧ t.shift = s.shift ∧ t.txq = s.txq ∧ t.rpend = s.rpend ∧
    (t.acc = s.acc ∨ (t.acc = 0#25 ∧ t.running = true))

/-- Between two ticks the line is constant: in a cycle without a tick PHASE, CNT and SHIFT keep their values, whatever the Host does; in a
cycle with one they become what the tick step makes them (R90, R103). -/
def Obligations.ProgramAdvancesExactlyAtTicks : Prop :=
  ∀ s t : State, (busIn s).rst = false → step s = .next t →
    (tickNow s = false → t.phase = s.phase ∧ t.cnt = s.cnt ∧ t.shift = s.shift) ∧
    (tickNow s = true → ∃ u, tickStep s = .next u ∧ t.phase = u.phase ∧ t.cnt = u.cnt ∧ t.shift = u.shift)

/-- The order within a cycle at its boundaries: a PUSH in the cycle of a pop from a full queue is accepted; a PUSH or a RESTART in the
cycle of an IDLE tick is not seen by that tick (R90, R192). -/
def Obligations.SameCycleOrder : Prop :=
  (∀ (s t : State) (w : Haw) (aa : BitVec 2) (hi : BitVec 24) (b head : Byte) (rest : List Byte),
    busIn s = { rst := false, haw := some w } → decodeHaw w = .push aa hi b →
    tickNow s = true → atDispatchPoint s = true → s.rpend = false → s.txq = head :: rest → qLevel s = txqDepth s →
    step s = .next t →
    t.txq = rest ++ [b] ∧ t.shift = head ∧ t.phase = phStart ∧ t.errTxover = s.errTxover ∧ t.ledger = s.ledger) ∧
  (∀ (s t : State) (w : Haw) (aa : BitVec 2) (hi : BitVec 24) (b : Byte),
    busIn s = { rst := false, haw := some w } → decodeHaw w = .push aa hi b →
    tickNow s = true → s.phase = phIdle → s.rpend = false → s.txq = [] → step s = .next t →
    t.txq = [b] ∧ t.phase = phIdle ∧ t.ledger = s.ledger) ∧
  (∀ (s t : State) (w : Haw) (aa : BitVec 2) (hi : BitVec 28),
    busIn s = { rst := false, haw := some w } → decodeHaw w = .cmdRestart aa hi →
    tickNow s = true → s.phase = phIdle → s.rpend = false → s.txq = [] → step s = .next t →
    t.rpend = true ∧ t.phase = phIdle ∧ t.ledger = s.ledger)

/-- A PUSH in a cycle with `dreq = 1` is accepted: the byte is in the queue and no error is raised (R41).  R142 says the converse too, against
R130 and R192; it is not claimed (log 8). -/
def Obligations.PushUnderDreqIsAccepted : Prop :=
  ∀ (s t : State) (w : Haw) (aa : BitVec 2) (hi : BitVec 24) (b : Byte), s.Inv →
    busIn s = { rst := false, haw := some w } → decodeHaw w = .push aa hi b →
    (dreq s = true ↔ s.running = true ∧ s.txq.length < s.cfg.txqDepth.toNat) ∧
    (dreq s = true → step s = .next t →
      acceptedNow s = [b] ∧ (∃ rest, t.txq = rest ++ [b] ∧ rest.length ≤ s.txq.length) ∧
      t.errTxover = s.errTxover ∧ t.errState = s.errState ∧ t.ledger = s.ledger)

/-! ### Invariants and whole-machine rules -/

/-- The invariant holds right after reset, for every instance. -/
def Obligations.InvariantAtReset : Prop :=
  ∀ cfg : Config, (State.resetWith cfg).Inv ∧ (State.resetWith cfg).LedgerInv

/-- Every cycle keeps the invariant: the level within the depth, a legal phase, a legal divisor while Running, `ACC < D256`, the counters in
range, and the block at its idle values while Stopped. -/
def Obligations.EveryCycleKeepsTheInvariant : Prop :=
  ∀ s t : State, s.Inv → step s = .next t → t.Inv

/-- Every cycle keeps the ledger's account of the sticky flags (R31, R162). -/
def Obligations.EveryCycleKeepsTheLedgerInvariant : Prop :=
  ∀ s t : State, s.LedgerInv → step s = .next t → t.LedgerInv

/-- The ledger only grows, by entries of this cycle; in a state hardware reaches, by at most one (R162, R166). -/
def Obligations.LedgerOnlyGrows : Prop :=
  ∀ s t : State, step s = .next t →
    ∃ new : List LedgerEntry, t.ledger = s.ledger ++ new ∧ (∀ e ∈ new, e.cycle = s.cycle) ∧ (s.Inv → new.length ≤ 1)

/-- The parameters of an instance never change (R45). -/
def Obligations.ParametersNeverChange : Prop :=
  ∀ s t : State, step s = .next t → t.cfg = s.cfg

/-- Only CMD_ENABLE sets RUNNING, with a legal divisor, and only reset clears it (R23). -/
def Obligations.OnlyEnableStartsOnlyResetStops : Prop :=
  ∀ s t : State, step s = .next t →
    ((busIn s).rst = true → t.running = false) ∧
    ((busIn s).rst = false → s.running = true → t.running = true) ∧
    (s.running = false → t.running = true →
      ∃ w aa hi, busIn s = { rst := false, haw := some w } ∧ decodeHaw w = .cmdEnable aa hi ∧ s.clkdiv.int ≠ 0#16)

/-- Only reset and a CLKDIV write while Stopped change the divisor (R24, R117, R189). -/
def Obligations.DivisorFrozenWhileRunning : Prop :=
  ∀ s t : State, step s = .next t → t.clkdiv ≠ s.clkdiv →
    (busIn s).rst = true ∨
    (s.running = false ∧ ∃ w aa int frac lo, busIn s = { rst := false, haw := some w } ∧
      decodeHaw w = .wrClkdiv aa int frac lo ∧ t.clkdiv = { int := int, frac := frac })

/-- An error flag is set only by the host access named in its row of R31, and cleared only by a 1 in its bit of a STATUS write, or by reset. -/
def Obligations.ErrorFlagsChangeOnlyByTheirAccesses : Prop :=
  ∀ s t : State, step s = .next t →
    (s.errTxover = false → t.errTxover = true → ∃ w aa hi b, busIn s = { rst := false, haw := some w } ∧
      decodeHaw w = .push aa hi b ∧ s.running = true ∧ s.txq.length - (poppedNow s).length = txqDepth s) ∧
    (s.errState = false → t.errState = true → ∃ w, busIn s = { rst := false, haw := some w } ∧
      ((s.running = false ∧ ((∃ aa hi b, decodeHaw w = .push aa hi b) ∨ (∃ aa hi, decodeHaw w = .cmdRestart aa hi))) ∨
       (s.running = true ∧
        ((∃ aa int frac lo, decodeHaw w = .wrClkdiv aa int frac lo) ∨ (∃ aa hi, decodeHaw w = .cmdEnable aa hi))))) ∧
    (s.errClk = false → t.errClk = true → ∃ w aa hi, busIn s = { rst := false, haw := some w } ∧
      decodeHaw w = .cmdEnable aa hi ∧ s.running = false ∧ s.clkdiv.int = 0#16) ∧
    (s.errCmd = false → t.errCmd = true → ∃ w, busIn s = { rst := false, haw := some w } ∧
      hawWr w = true ∧ hawReg w = 3#5 ∧ 3 ≤ (opCode (hawData w)).toNat) ∧
    (∀ k : Fin 4,
      [s.errTxover, s.errState, s.errClk, s.errCmd][k] = true → [t.errTxover, t.errState, t.errClk, t.errCmd][k] = false →
      (busIn s).rst = true ∨ ∃ w aa hi m lo, busIn s = { rst := false, haw := some w } ∧
        decodeHaw w = .wrStatus aa hi m lo ∧ m.getLsbD k = true)

/-- A break starts only at a dispatch point, at a tick, with a restart pending, and a character only there with a byte queued and none
pending: no character and no break is cut short (R93, R107). -/
def Obligations.NoCharacterOrBreakIsClipped : Prop :=
  ∀ s t : State, (busIn s).rst = false → step s = .next t →
    (t.phase = phBreak → s.phase ≠ phBreak → tickNow s = true ∧ atDispatchPoint s = true ∧ s.rpend = true ∧ t.cnt = 87#8) ∧
    (t.phase = phStart → s.phase ≠ phStart →
      tickNow s = true ∧ atDispatchPoint s = true ∧ s.rpend = false ∧ poppedNow s = [t.shift]) ∧
    (s.phase = phStart → t.phase = phStart ∨ t.phase = phData ∧ t.cnt = 0#8) ∧
    (s.phase = phData → t.phase = phData ∨ t.phase = phStop1 ∧ s.cnt = 7#8) ∧
    (s.phase = phStop1 → t.phase = phStop1 ∨ t.phase = phStop2) ∧
    (s.phase = phBreak → t.phase = phBreak ∨ t.phase = phMab ∧ s.cnt = 0#8 ∧ t.cnt = 7#8) ∧
    (s.phase = phMab → t.phase ≠ phMab → s.cnt = 0#8)

/-- The wire is at rest exactly when STATUS says so, and it stays at rest, the line at mark, until a PUSH, a RESTART or reset (R141). -/
def Obligations.RestIsVisibleAndStable : Prop :=
  ∀ s : State, s.Inv →
    (s.atRest ↔ (statusWord s).getLsbD 0 = true ∧ (statusWord s).getLsbD 2 = true ∧ (statusWord s).getLsbD 3 = false) ∧
    (s.atRest → dmxTx s = some true ∧
      ∀ t, step s = .next t → (busIn s).rst = false →
        (∀ w aa hi, (busIn s).haw = some w → decodeHaw w ≠ .cmdRestart aa hi) → pushedNow s = [] → t.atRest)

/-! ### The divider and the divisor -/

/-- The divider step: it adds 256, ticks when the sum reaches `D256`, takes `D256` off at a tick, and stays below it (R110). -/
def Obligations.DividerStep : Prop :=
  ∀ (acc : BitVec 25) (d : BitVec 24), 256 ≤ d.toNat → acc.toNat < d.toNat →
    ((divider acc d).1 = true ↔ d.toNat ≤ acc.toNat + 256) ∧
    ((divider acc d).1 = true → (divider acc d).2.toNat + d.toNat = acc.toNat + 256) ∧
    ((divider acc d).1 = false → (divider acc d).2.toNat = acc.toNat + 256) ∧
    (divider acc d).2.toNat < d.toNat

/-- Tick times: with RUNNING = 1 and ACC = 0, as an ENABLE leaves them, and without reset, the `k`-th tick falls in running cycle
`ceil(k * D256 / 256)`, for every legal divisor and whatever else the Host does (R111). -/
def Obligations.TickTimes : Prop :=
  ∀ s : State, s.Inv → s.noReset → s.running = true → s.acc = 0#25 →
    ∀ n : Nat, ∃ t, run n s = .next t ∧ t.running = true ∧ d256 t = d256 s ∧
      t.acc.toNat = 256 * n % (d256 s).toNat ∧
      (t.noReset ∧ (tickNow t = true ↔ ∃ k : Nat, 1 ≤ k ∧ n + 1 = (k * (d256 s).toNat + 255) / 256))

/-- `DivisorFor`: the word is `{INT, FRAC, 0}` of `floor(F_SYS * 256 / 250000)`, it passes ENABLE's check, and `ClockOutOfRange` arises exactly
when `F_SYS < 250000`; at 125 MHz it is 0x01F40000 (R113). -/
def Obligations.DivisorForTheBitRate : Prop :=
  (∀ f : BitVec 32, divisorFor f = none ↔ f.toNat < 250000) ∧
  (∀ (f : BitVec 32) (v : Word), divisorFor f = some v →
    (opInt v).toNat * 256 + (opFrac v).toNat = f.toNat * 256 / 250000 ∧ v.extractLsb' 0 8 = 0#8 ∧ opInt v ≠ 0#16) ∧
  divisorFor 125000000#32 = some 0x01F40000#32

/-- A faster clock never gets a smaller divisor (R114). -/
def Obligations.DivisorGrowsWithTheClock : Prop :=
  ∀ (f g : BitVec 32) (v w : Word), f.toNat < g.toNat → divisorFor f = some v → divisorFor g = some w → v.toNat ≤ w.toNat

/-- The bind sequence brings any instance from reset to Running with the canonical divisor: STATUS reads 0x00000005, no error, no model
fault, the line at mark (R121). -/
def Obligations.BindReachesRunning : Prop :=
  ∀ (cfg : Config) (p : List AsmLine), bindProgram cfg.fSys = some p →
    ∃ t, run 2 (loadProgram p (State.resetWith cfg)) = .next t ∧ t.running = true ∧ t.host = [] ∧
      divisorFor cfg.fSys = some (clkdivWord t) ∧ statusWord t = 0x00000005#32 ∧ t.ledger = [] ∧ dmxTx t = some true

/-! ### The wire -/

/-- From START, eleven tick intervals carry the character of SHIFT and the tenth tick reaches STOP2, with queue and RPEND untouched (R82,
R103). -/
def Obligations.CharacterInElevenTicks : Prop :=
  ∀ s : State, s.phase = phStart →
    lineTrace 11 s = (character s.shift).map some ∧
    ∃ t, tickRun 10 s = .next t ∧ t.phase = phStop2 ∧ t.txq = s.txq ∧ t.rpend = s.rpend ∧ t.shift = s.shift

/-- A break from its start carries 88 tick intervals of 0 and 8 of 1, and its 96th tick is the next dispatch point (R83, R104). -/
def Obligations.BreakAndMabInNinetySixTicks : Prop :=
  ∀ s : State, s.phase = phBreak → s.cnt = 87#8 →
    lineTrace 96 s = (List.replicate 88 false ++ List.replicate 8 true).map some ∧
    ∃ t, tickRun 95 s = .next t ∧ t.phase = phMab ∧ t.cnt = 0#8 ∧ atDispatchPoint t = true ∧ t.txq = s.txq ∧ t.rpend = s.rpend

/-- A frame in ticks: from IDLE with a restart pending and bytes queued, one idle interval, the break, the MAB, then every queued byte's
character, back to back and in order, and IDLE again (R83, R106). -/
def Obligations.QueuedFrameOnTheWire : Prop :=
  ∀ s : State, s.phase = phIdle → s.rpend = true →
    lineTrace (1 + 96 + 11 * s.txq.length) s = (true :: (breakAndMab ++ s.txq.flatMap character)).map some ∧
    ∃ t, tickRun (1 + 96 + 11 * s.txq.length) s = .next t ∧ t.phase = phIdle ∧ t.txq = [] ∧ t.rpend = false

/-- A character in cycles: with `FRAC = 0`, from the first cycle of its START, each of its eleven levels stands on the wire for exactly `INT`
cycles, whatever the Host does meanwhile, short of reset (R103). -/
def Obligations.CharacterInCycles : Prop :=
  ∀ s : State, s.Inv → s.noReset → s.running = true → s.phase = phStart → s.acc = 0#25 → s.clkdiv.frac = 0#8 →
    wireTrace (11 * s.clkdiv.int.toNat) s =
      ((character s.shift).flatMap fun v => List.replicate s.clkdiv.int.toNat v).map some

/-- A break in cycles: with `FRAC = 0`, from its first cycle, `88 * INT` cycles of 0 and then `8 * INT` of 1, whatever the Host does
meanwhile, short of reset (R104). -/
def Obligations.BreakAndMabInCycles : Prop :=
  ∀ s : State, s.Inv → s.noReset → s.running = true → s.phase = phBreak → s.cnt = 87#8 → s.acc = 0#25 →
    s.clkdiv.frac = 0#8 →
    wireTrace (96 * s.clkdiv.int.toNat) s =
      List.replicate (88 * s.clkdiv.int.toNat) (some false) ++ List.replicate (8 * s.clkdiv.int.toNat) (some true)

/-- Dispatch latency: a byte at the head of the queue in IDLE, with no restart pending or coming and no reset, starts within `ceil(D)` cycles,
and the line stays at mark until then (R108). -/
def Obligations.QueuedByteStartsWithinOneBit : Prop :=
  ∀ (s : State) (b : Byte) (rest : List Byte), s.Inv → s.quiet → s.running = true → s.phase = phIdle → s.rpend = false →
    s.txq = b :: rest →
    ∃ k t, 1 ≤ k ∧ k ≤ ((d256 s).toNat + 255) / 256 ∧ run k s = .next t ∧ t.phase = phStart ∧ t.shift = b ∧
      wireTrace k s = List.replicate k (some true)

/-- Restart latency: in IDLE with a restart pending and no reset, the break starts within `ceil(D)` cycles, the line at mark until then; in
START it starts at the eleventh tick, and in BREAK or MAB after the rest of the break and the MAB (R108). -/
def Obligations.PendingRestartStartsInTime : Prop :=
  (∀ s : State, s.Inv → s.noReset → s.running = true → s.phase = phIdle → s.rpend = true →
    ∃ k t, 1 ≤ k ∧ k ≤ ((d256 s).toNat + 255) / 256 ∧ run k s = .next t ∧ t.phase = phBreak ∧ t.cnt = 87#8 ∧
      wireTrace k s = List.replicate k (some true)) ∧
  (∀ s : State, s.phase = phStart → s.rpend = true →
    ∃ t, tickRun 11 s = .next t ∧ t.phase = phBreak ∧ t.cnt = 87#8 ∧ t.rpend = false ∧ t.txq = s.txq) ∧
  (∀ s : State, s.phase = phBreak → s.rpend = true →
    ∃ t, tickRun (s.cnt.toNat + 9) s = .next t ∧ t.phase = phBreak ∧ t.cnt = 87#8 ∧ t.rpend = false ∧ t.txq = s.txq) ∧
  (∀ s : State, s.phase = phMab → s.rpend = true →
    ∃ t, tickRun (s.cnt.toNat + 1) s = .next t ∧ t.phase = phBreak ∧ t.cnt = 87#8 ∧ t.rpend = false ∧ t.txq = s.txq)

/-- Queue order and loss: without reset, the bytes in the queue and the bytes accepted during a run are, in order, the bytes the Engine took
during it and the bytes left: each is taken once, in the order it was accepted (R61, R106). -/
def Obligations.AcceptedBytesAreTakenOnceInOrder : Prop :=
  ∀ (n : Nat) (s t : State), s.noReset → run n s = .next t →
    s.txq ++ acceptedTrace n s = poppedTrace n s ++ t.txq

/-- A universe of any length, its lines back to back and `waitdone` last (the model's choice of sequence, log 13): from rest, the sequence
comes to an end, back at rest and without a model fault; its bytes are accepted in order, and the Engine starts one break and then the
characters of the start code and the channels, in order and nothing else (R146, R148). -/
def Obligations.UniverseSequenceSendsTheFrame : Prop :=
  ∀ (s : State) (channels : List Byte), s.Inv → s.atRest → s.host = assemble (universeProgram channels) →
    ∃ n t, run n s = .next t ∧ t.atRest ∧ t.host = [] ∧ t.ledger = s.ledger ∧
      acceptedTrace n s = 0#8 :: channels ∧
      startedTrace n s = .brk :: (0#8 :: channels).map .char

/-- The same at any pace and with the weaker wait `waitempty` (R146 step 4): with any number of no-access cycles before, between and after
the lines, the sequence comes to an end with the queue empty and without a model fault, its bytes accepted in order, and the Engine has
started one break and then every character, in order and nothing else (R81, R146, R148). -/
def Obligations.UniverseSequenceAtAnyPace : Prop :=
  ∀ (s : State) (channels : List Byte), s.Inv → s.atRest →
    s.host.filter (fun l => decide (l ≠ idleLine)) =
      assemble (.restart :: .pushw 0#8 :: (channels.map AsmLine.pushw ++ [.waitempty])) →
    ∃ n t, run n s = .next t ∧ t.running = true ∧ t.txq = [] ∧ t.rpend = false ∧ t.host = [] ∧ t.ledger = s.ledger ∧
      acceptedTrace n s = 0#8 :: channels ∧
      startedTrace n s = .brk :: (0#8 :: channels).map .char
end

