-- ==== Sys2Proof/Laws/Encoding.lean ====
section
/-! SUPPORT. The fields of a Host Access Word and of its DATA, put together and taken apart again. -/

namespace Sys2Proof
theorem toNat_append_add {m n : Nat} (x : BitVec m) (y : BitVec n) :
    (x ++ y).toNat = x.toNat * 2 ^ n + y.toNat := by
  rw [BitVec.toNat_append, Nat.shiftLeft_eq, Nat.mul_comm, Nat.two_pow_add_eq_or_of_lt y.isLt]

theorem mkHaw_toNat (wr : Bool) (reg : BitVec 5) (aa : BitVec 2) (data : Word) :
    (mkHaw wr reg aa data).toNat = ((wr.toNat * 2 ^ 5 + reg.toNat) * 2 ^ 2 + aa.toNat) * 2 ^ 32 + data.toNat := by
  refine (toNat_append_add (BitVec.ofBool wr ++ reg ++ aa) data).trans ?_
  rw [toNat_append_add, toNat_append_add, BitVec.toNat_ofBool]

theorem hawWr_iff (w : Haw) : hawWr w = decide (2 ^ 39 ≤ w.toNat) := by
  have := w.isLt
  simp only [hawWr, BitVec.getLsbD, Nat.testBit_eq_decide_div_mod_eq, decide_eq_decide]
  omega

@[simp] theorem hawWr_mkHaw (wr : Bool) (reg : BitVec 5) (aa : BitVec 2) (data : Word) :
    hawWr (mkHaw wr reg aa data) = wr := by
  rw [hawWr_iff, mkHaw_toNat]
  cases wr <;> simp <;> omega

@[simp] theorem hawReg_mkHaw (wr : Bool) (reg : BitVec 5) (aa : BitVec 2) (data : Word) :
    hawReg (mkHaw wr reg aa data) = reg := by
  apply BitVec.eq_of_toNat_eq
  rw [hawReg, BitVec.extractLsb'_toNat, mkHaw_toNat, Nat.shiftRight_eq_div_pow]
  omega
@[simp] theorem hawAddrLow_mkHaw (wr : Bool) (reg : BitVec 5) (aa : BitVec 2) (data : Word) :
    hawAddrLow (mkHaw wr reg aa data) = aa := by
  apply BitVec.eq_of_toNat_eq
  rw [hawAddrLow, BitVec.extractLsb'_toNat, mkHaw_toNat, Nat.shiftRight_eq_div_pow]
  omega
@[simp] theorem hawData_mkHaw (wr : Bool) (reg : BitVec 5) (aa : BitVec 2) (data : Word) :
    hawData (mkHaw wr reg aa data) = data := by
  apply BitVec.eq_of_toNat_eq
  rw [hawData, BitVec.extractLsb'_toNat, mkHaw_toNat, Nat.shiftRight_eq_div_pow]
  omega
theorem mkHaw_fields (w : Haw) : mkHaw (hawWr w) (hawReg w) (hawAddrLow w) (hawData w) = w := by
  apply BitVec.eq_of_toNat_eq
  rw [mkHaw_toNat, hawWr_iff, hawReg, hawAddrLow, hawData]
  simp only [BitVec.extractLsb'_toNat, Nat.shiftRight_eq_div_pow]
  have := w.isLt
  by_cases h : 2 ^ 39 ≤ w.toNat <;> simp only [h, decide_true, decide_false, Bool.toNat_true, Bool.toNat_false] <;> omega


/-- A low part of an append is its right side. -/
theorem extract_append_low {m n : Nat} (x : BitVec m) (y : BitVec n) : (x ++ y).extractLsb' 0 n = y := by
  apply BitVec.eq_of_toNat_eq
  rw [BitVec.extractLsb'_toNat, toNat_append_add, Nat.shiftRight_eq_div_pow]
  simp [Nat.mod_eq_of_lt y.isLt]

/-- A high part of an append is its left side. -/
theorem extract_append_high {m n : Nat} (x : BitVec m) (y : BitVec n) : (x ++ y).extractLsb' n m = x := by
  apply BitVec.eq_of_toNat_eq
  rw [BitVec.extractLsb'_toNat, toNat_append_add, Nat.shiftRight_eq_div_pow, Nat.mul_comm,
    Nat.mul_add_div (Nat.two_pow_pos n), Nat.div_eq_of_lt y.isLt, Nat.add_zero, Nat.mod_eq_of_lt x.isLt]

@[simp] theorem opByte_append (hi : BitVec 24) (b : Byte) : opByte (hi ++ b) = b := extract_append_low hi b
@[simp] theorem opAboveByte_append (hi : BitVec 24) (b : Byte) : opAboveByte (hi ++ b) = hi := extract_append_high hi b
@[simp] theorem opCode_append (hi : BitVec 28) (c : BitVec 4) : opCode (hi ++ c) = c := extract_append_low hi c
@[simp] theorem opAboveCode_append (hi : BitVec 28) (c : BitVec 4) : opAboveCode (hi ++ c) = hi := extract_append_high hi c

/-- The three fields of a WR_STATUS word. -/
@[simp] theorem opClearMask_append (hi : BitVec 12) (m : BitVec 4) (lo : BitVec 16) : opClearMask (hi ++ m ++ lo) = m := by
  apply BitVec.eq_of_toNat_eq
  rw [opClearMask, BitVec.extractLsb'_toNat, toNat_append_add, toNat_append_add, Nat.shiftRight_eq_div_pow]
  omega
@[simp] theorem opAboveMask_append (hi : BitVec 12) (m : BitVec 4) (lo : BitVec 16) : opAboveMask (hi ++ m ++ lo) = hi := by
  apply BitVec.eq_of_toNat_eq
  rw [opAboveMask, BitVec.extractLsb'_toNat, toNat_append_add, toNat_append_add, Nat.shiftRight_eq_div_pow]
  omega
@[simp] theorem opBelowMask_append (hi : BitVec 12) (m : BitVec 4) (lo : BitVec 16) : opBelowMask (hi ++ m ++ lo) = lo := by
  apply BitVec.eq_of_toNat_eq
  rw [opBelowMask, BitVec.extractLsb'_toNat, toNat_append_add, toNat_append_add, Nat.shiftRight_eq_div_pow]
  omega

/-- The three fields of a WR_CLKDIV word. -/
@[simp] theorem opInt_append (int : BitVec 16) (frac lo : BitVec 8) : opInt (int ++ frac ++ lo) = int := by
  apply BitVec.eq_of_toNat_eq
  rw [opInt, BitVec.extractLsb'_toNat, toNat_append_add, toNat_append_add, Nat.shiftRight_eq_div_pow]
  omega
@[simp] theorem opFrac_append (int : BitVec 16) (frac lo : BitVec 8) : opFrac (int ++ frac ++ lo) = frac := by
  apply BitVec.eq_of_toNat_eq
  rw [opFrac, BitVec.extractLsb'_toNat, toNat_append_add, toNat_append_add, Nat.shiftRight_eq_div_pow]
  omega
@[simp] theorem opBelowFrac_append (int : BitVec 16) (frac lo : BitVec 8) : opBelowFrac (int ++ frac ++ lo) = lo := by
  apply BitVec.eq_of_toNat_eq
  rw [opBelowFrac, BitVec.extractLsb'_toNat, toNat_append_add, toNat_append_add, Nat.shiftRight_eq_div_pow]
  omega

/-- DATA from PUSH's fields. -/
theorem byte_fields (d : Word) : opAboveByte d ++ opByte d = d := by
  apply BitVec.eq_of_toNat_eq
  rw [toNat_append_add, opAboveByte, opByte]
  simp only [BitVec.extractLsb'_toNat, Nat.shiftRight_eq_div_pow]
  omega

/-- DATA from a command's fields. -/
theorem code_fields (d : Word) : opAboveCode d ++ opCode d = d := by
  apply BitVec.eq_of_toNat_eq
  rw [toNat_append_add, opAboveCode, opCode]
  simp only [BitVec.extractLsb'_toNat, Nat.shiftRight_eq_div_pow]
  omega

/-- DATA from WR_STATUS's fields. -/
theorem mask_fields (d : Word) : opAboveMask d ++ opClearMask d ++ opBelowMask d = d := by
  apply BitVec.eq_of_toNat_eq
  refine (toNat_append_add (opAboveMask d ++ opClearMask d) (opBelowMask d)).trans ?_
  rw [toNat_append_add, opAboveMask, opClearMask, opBelowMask]
  simp only [BitVec.extractLsb'_toNat, Nat.shiftRight_eq_div_pow]
  omega

/-- DATA from WR_CLKDIV's fields. -/
theorem clkdiv_fields (d : Word) : opInt d ++ opFrac d ++ opBelowFrac d = d := by
  apply BitVec.eq_of_toNat_eq
  refine (toNat_append_add (opInt d ++ opFrac d) (opBelowFrac d)).trans ?_
  rw [toNat_append_add, opInt, opFrac, opBelowFrac]
  simp only [BitVec.extractLsb'_toNat, Nat.shiftRight_eq_div_pow]
  omega

end Sys2Proof
end

