-- ==== Sys2Proof/Laws/State.lean ====
section
/-! SUPPORT. What each shared operation leaves alone, field by field, and what the plain updates write (for use as a simp set). -/

namespace Sys2Proof.Machine

/-! ### recordFault -/

@[simp] theorem recordFault_cfg (e : ModelFault) (s : State) : (recordFault e s).cfg = s.cfg := rfl
@[simp] theorem recordFault_running (e : ModelFault) (s : State) : (recordFault e s).running = s.running := rfl
@[simp] theorem recordFault_clkdiv (e : ModelFault) (s : State) : (recordFault e s).clkdiv = s.clkdiv := rfl
@[simp] theorem recordFault_acc (e : ModelFault) (s : State) : (recordFault e s).acc = s.acc := rfl
@[simp] theorem recordFault_phase (e : ModelFault) (s : State) : (recordFault e s).phase = s.phase := rfl
@[simp] theorem recordFault_cnt (e : ModelFault) (s : State) : (recordFault e s).cnt = s.cnt := rfl
@[simp] theorem recordFault_shift (e : ModelFault) (s : State) : (recordFault e s).shift = s.shift := rfl
@[simp] theorem recordFault_txq (e : ModelFault) (s : State) : (recordFault e s).txq = s.txq := rfl
@[simp] theorem recordFault_rpend (e : ModelFault) (s : State) : (recordFault e s).rpend = s.rpend := rfl
@[simp] theorem recordFault_errTxover (e : ModelFault) (s : State) : (recordFault e s).errTxover = s.errTxover := rfl
@[simp] theorem recordFault_errState (e : ModelFault) (s : State) : (recordFault e s).errState = s.errState := rfl
@[simp] theorem recordFault_errClk (e : ModelFault) (s : State) : (recordFault e s).errClk = s.errClk := rfl
@[simp] theorem recordFault_errCmd (e : ModelFault) (s : State) : (recordFault e s).errCmd = s.errCmd := rfl
@[simp] theorem recordFault_stuck (e : ModelFault) (s : State) : (recordFault e s).stuck = s.stuck := rfl
@[simp] theorem recordFault_rdata (e : ModelFault) (s : State) : (recordFault e s).rdata = s.rdata := rfl
@[simp] theorem recordFault_host (e : ModelFault) (s : State) : (recordFault e s).host = s.host := rfl
@[simp] theorem recordFault_cycle (e : ModelFault) (s : State) : (recordFault e s).cycle = s.cycle := rfl

/-! ### setErrFlag -/

@[simp] theorem setErrFlag_cfg (e : ModelFault) (s : State) : (setErrFlag e s).cfg = s.cfg := by cases e <;> rfl
@[simp] theorem setErrFlag_running (e : ModelFault) (s : State) : (setErrFlag e s).running = s.running := by cases e <;> rfl
@[simp] theorem setErrFlag_clkdiv (e : ModelFault) (s : State) : (setErrFlag e s).clkdiv = s.clkdiv := by cases e <;> rfl
@[simp] theorem setErrFlag_acc (e : ModelFault) (s : State) : (setErrFlag e s).acc = s.acc := by cases e <;> rfl
@[simp] theorem setErrFlag_phase (e : ModelFault) (s : State) : (setErrFlag e s).phase = s.phase := by cases e <;> rfl
@[simp] theorem setErrFlag_cnt (e : ModelFault) (s : State) : (setErrFlag e s).cnt = s.cnt := by cases e <;> rfl
@[simp] theorem setErrFlag_shift (e : ModelFault) (s : State) : (setErrFlag e s).shift = s.shift := by cases e <;> rfl
@[simp] theorem setErrFlag_txq (e : ModelFault) (s : State) : (setErrFlag e s).txq = s.txq := by cases e <;> rfl
@[simp] theorem setErrFlag_rpend (e : ModelFault) (s : State) : (setErrFlag e s).rpend = s.rpend := by cases e <;> rfl
@[simp] theorem setErrFlag_stuck (e : ModelFault) (s : State) : (setErrFlag e s).stuck = s.stuck := by cases e <;> rfl
@[simp] theorem setErrFlag_rdata (e : ModelFault) (s : State) : (setErrFlag e s).rdata = s.rdata := by cases e <;> rfl
@[simp] theorem setErrFlag_host (e : ModelFault) (s : State) : (setErrFlag e s).host = s.host := by cases e <;> rfl
@[simp] theorem setErrFlag_cycle (e : ModelFault) (s : State) : (setErrFlag e s).cycle = s.cycle := by cases e <;> rfl
@[simp] theorem setErrFlag_ledger (e : ModelFault) (s : State) : (setErrFlag e s).ledger = s.ledger := by cases e <;> rfl

/-! ### raiseErr -/

@[simp] theorem raiseErr_cfg (e : ModelFault) (s : State) : (raiseErr e s).cfg = s.cfg := by cases e <;> rfl
@[simp] theorem raiseErr_running (e : ModelFault) (s : State) : (raiseErr e s).running = s.running := by cases e <;> rfl
@[simp] theorem raiseErr_clkdiv (e : ModelFault) (s : State) : (raiseErr e s).clkdiv = s.clkdiv := by cases e <;> rfl
@[simp] theorem raiseErr_acc (e : ModelFault) (s : State) : (raiseErr e s).acc = s.acc := by cases e <;> rfl
@[simp] theorem raiseErr_phase (e : ModelFault) (s : State) : (raiseErr e s).phase = s.phase := by cases e <;> rfl
@[simp] theorem raiseErr_cnt (e : ModelFault) (s : State) : (raiseErr e s).cnt = s.cnt := by cases e <;> rfl
@[simp] theorem raiseErr_shift (e : ModelFault) (s : State) : (raiseErr e s).shift = s.shift := by cases e <;> rfl
@[simp] theorem raiseErr_txq (e : ModelFault) (s : State) : (raiseErr e s).txq = s.txq := by cases e <;> rfl
@[simp] theorem raiseErr_rpend (e : ModelFault) (s : State) : (raiseErr e s).rpend = s.rpend := by cases e <;> rfl
@[simp] theorem raiseErr_stuck (e : ModelFault) (s : State) : (raiseErr e s).stuck = s.stuck := by cases e <;> rfl
@[simp] theorem raiseErr_rdata (e : ModelFault) (s : State) : (raiseErr e s).rdata = s.rdata := by cases e <;> rfl
@[simp] theorem raiseErr_host (e : ModelFault) (s : State) : (raiseErr e s).host = s.host := by cases e <;> rfl
@[simp] theorem raiseErr_cycle (e : ModelFault) (s : State) : (raiseErr e s).cycle = s.cycle := by cases e <;> rfl

/-! ### badPhaseStop -/

@[simp] theorem badPhaseStop_cfg (s : State) : (badPhaseStop s).cfg = s.cfg := rfl
@[simp] theorem badPhaseStop_running (s : State) : (badPhaseStop s).running = s.running := rfl
@[simp] theorem badPhaseStop_clkdiv (s : State) : (badPhaseStop s).clkdiv = s.clkdiv := rfl
@[simp] theorem badPhaseStop_acc (s : State) : (badPhaseStop s).acc = s.acc := rfl
@[simp] theorem badPhaseStop_phase (s : State) : (badPhaseStop s).phase = s.phase := rfl
@[simp] theorem badPhaseStop_cnt (s : State) : (badPhaseStop s).cnt = s.cnt := rfl
@[simp] theorem badPhaseStop_shift (s : State) : (badPhaseStop s).shift = s.shift := rfl
@[simp] theorem badPhaseStop_txq (s : State) : (badPhaseStop s).txq = s.txq := rfl
@[simp] theorem badPhaseStop_rpend (s : State) : (badPhaseStop s).rpend = s.rpend := rfl
@[simp] theorem badPhaseStop_errTxover (s : State) : (badPhaseStop s).errTxover = s.errTxover := rfl
@[simp] theorem badPhaseStop_errState (s : State) : (badPhaseStop s).errState = s.errState := rfl
@[simp] theorem badPhaseStop_errClk (s : State) : (badPhaseStop s).errClk = s.errClk := rfl
@[simp] theorem badPhaseStop_errCmd (s : State) : (badPhaseStop s).errCmd = s.errCmd := rfl
@[simp] theorem badPhaseStop_rdata (s : State) : (badPhaseStop s).rdata = s.rdata := rfl
@[simp] theorem badPhaseStop_host (s : State) : (badPhaseStop s).host = s.host := rfl
@[simp] theorem badPhaseStop_cycle (s : State) : (badPhaseStop s).cycle = s.cycle := rfl

/-! ### qPush -/

@[simp] theorem qPush_cfg (b : Byte) (s : State) : (qPush b s).cfg = s.cfg := rfl
@[simp] theorem qPush_running (b : Byte) (s : State) : (qPush b s).running = s.running := rfl
@[simp] theorem qPush_clkdiv (b : Byte) (s : State) : (qPush b s).clkdiv = s.clkdiv := rfl
@[simp] theorem qPush_acc (b : Byte) (s : State) : (qPush b s).acc = s.acc := rfl
@[simp] theorem qPush_phase (b : Byte) (s : State) : (qPush b s).phase = s.phase := rfl
@[simp] theorem qPush_cnt (b : Byte) (s : State) : (qPush b s).cnt = s.cnt := rfl
@[simp] theorem qPush_shift (b : Byte) (s : State) : (qPush b s).shift = s.shift := rfl
@[simp] theorem qPush_rpend (b : Byte) (s : State) : (qPush b s).rpend = s.rpend := rfl
@[simp] theorem qPush_errTxover (b : Byte) (s : State) : (qPush b s).errTxover = s.errTxover := rfl
@[simp] theorem qPush_errState (b : Byte) (s : State) : (qPush b s).errState = s.errState := rfl
@[simp] theorem qPush_errClk (b : Byte) (s : State) : (qPush b s).errClk = s.errClk := rfl
@[simp] theorem qPush_errCmd (b : Byte) (s : State) : (qPush b s).errCmd = s.errCmd := rfl
@[simp] theorem qPush_stuck (b : Byte) (s : State) : (qPush b s).stuck = s.stuck := rfl
@[simp] theorem qPush_rdata (b : Byte) (s : State) : (qPush b s).rdata = s.rdata := rfl
@[simp] theorem qPush_host (b : Byte) (s : State) : (qPush b s).host = s.host := rfl
@[simp] theorem qPush_cycle (b : Byte) (s : State) : (qPush b s).cycle = s.cycle := rfl
@[simp] theorem qPush_ledger (b : Byte) (s : State) : (qPush b s).ledger = s.ledger := rfl

/-! ### respond -/

@[simp] theorem respond_cfg (v : Word) (s : State) : (respond v s).cfg = s.cfg := rfl
@[simp] theorem respond_running (v : Word) (s : State) : (respond v s).running = s.running := rfl
@[simp] theorem respond_clkdiv (v : Word) (s : State) : (respond v s).clkdiv = s.clkdiv := rfl
@[simp] theorem respond_acc (v : Word) (s : State) : (respond v s).acc = s.acc := rfl
@[simp] theorem respond_phase (v : Word) (s : State) : (respond v s).phase = s.phase := rfl
@[simp] theorem respond_cnt (v : Word) (s : State) : (respond v s).cnt = s.cnt := rfl
@[simp] theorem respond_shift (v : Word) (s : State) : (respond v s).shift = s.shift := rfl
@[simp] theorem respond_txq (v : Word) (s : State) : (respond v s).txq = s.txq := rfl
@[simp] theorem respond_rpend (v : Word) (s : State) : (respond v s).rpend = s.rpend := rfl
@[simp] theorem respond_errTxover (v : Word) (s : State) : (respond v s).errTxover = s.errTxover := rfl
@[simp] theorem respond_errState (v : Word) (s : State) : (respond v s).errState = s.errState := rfl
@[simp] theorem respond_errClk (v : Word) (s : State) : (respond v s).errClk = s.errClk := rfl
@[simp] theorem respond_errCmd (v : Word) (s : State) : (respond v s).errCmd = s.errCmd := rfl
@[simp] theorem respond_stuck (v : Word) (s : State) : (respond v s).stuck = s.stuck := rfl
@[simp] theorem respond_host (v : Word) (s : State) : (respond v s).host = s.host := rfl
@[simp] theorem respond_cycle (v : Word) (s : State) : (respond v s).cycle = s.cycle := rfl
@[simp] theorem respond_ledger (v : Word) (s : State) : (respond v s).ledger = s.ledger := rfl

/-! ### clearErrors -/

@[simp] theorem clearErrors_cfg (m : BitVec 4) (s : State) : (clearErrors m s).cfg = s.cfg := rfl
@[simp] theorem clearErrors_running (m : BitVec 4) (s : State) : (clearErrors m s).running = s.running := rfl
@[simp] theorem clearErrors_clkdiv (m : BitVec 4) (s : State) : (clearErrors m s).clkdiv = s.clkdiv := rfl
@[simp] theorem clearErrors_acc (m : BitVec 4) (s : State) : (clearErrors m s).acc = s.acc := rfl
@[simp] theorem clearErrors_phase (m : BitVec 4) (s : State) : (clearErrors m s).phase = s.phase := rfl
@[simp] theorem clearErrors_cnt (m : BitVec 4) (s : State) : (clearErrors m s).cnt = s.cnt := rfl
@[simp] theorem clearErrors_shift (m : BitVec 4) (s : State) : (clearErrors m s).shift = s.shift := rfl
@[simp] theorem clearErrors_txq (m : BitVec 4) (s : State) : (clearErrors m s).txq = s.txq := rfl
@[simp] theorem clearErrors_rpend (m : BitVec 4) (s : State) : (clearErrors m s).rpend = s.rpend := rfl
@[simp] theorem clearErrors_stuck (m : BitVec 4) (s : State) : (clearErrors m s).stuck = s.stuck := rfl
@[simp] theorem clearErrors_rdata (m : BitVec 4) (s : State) : (clearErrors m s).rdata = s.rdata := rfl
@[simp] theorem clearErrors_host (m : BitVec 4) (s : State) : (clearErrors m s).host = s.host := rfl
@[simp] theorem clearErrors_cycle (m : BitVec 4) (s : State) : (clearErrors m s).cycle = s.cycle := rfl
@[simp] theorem clearErrors_ledger (m : BitVec 4) (s : State) : (clearErrors m s).ledger = s.ledger := rfl

/-! ### pushByte -/

@[simp] theorem pushByte_cfg (b : Byte) (s : State) : (pushByte b s).cfg = s.cfg := by unfold pushByte; split <;> [skip; split] <;> rfl
@[simp] theorem pushByte_running (b : Byte) (s : State) : (pushByte b s).running = s.running := by unfold pushByte; split <;> [skip; split] <;> rfl
@[simp] theorem pushByte_clkdiv (b : Byte) (s : State) : (pushByte b s).clkdiv = s.clkdiv := by unfold pushByte; split <;> [skip; split] <;> rfl
@[simp] theorem pushByte_acc (b : Byte) (s : State) : (pushByte b s).acc = s.acc := by unfold pushByte; split <;> [skip; split] <;> rfl
@[simp] theorem pushByte_phase (b : Byte) (s : State) : (pushByte b s).phase = s.phase := by unfold pushByte; split <;> [skip; split] <;> rfl
@[simp] theorem pushByte_cnt (b : Byte) (s : State) : (pushByte b s).cnt = s.cnt := by unfold pushByte; split <;> [skip; split] <;> rfl
@[simp] theorem pushByte_shift (b : Byte) (s : State) : (pushByte b s).shift = s.shift := by unfold pushByte; split <;> [skip; split] <;> rfl
@[simp] theorem pushByte_rpend (b : Byte) (s : State) : (pushByte b s).rpend = s.rpend := by unfold pushByte; split <;> [skip; split] <;> rfl
@[simp] theorem pushByte_errClk (b : Byte) (s : State) : (pushByte b s).errClk = s.errClk := by unfold pushByte; split <;> [skip; split] <;> rfl
@[simp] theorem pushByte_errCmd (b : Byte) (s : State) : (pushByte b s).errCmd = s.errCmd := by unfold pushByte; split <;> [skip; split] <;> rfl
@[simp] theorem pushByte_stuck (b : Byte) (s : State) : (pushByte b s).stuck = s.stuck := by unfold pushByte; split <;> [skip; split] <;> rfl
@[simp] theorem pushByte_rdata (b : Byte) (s : State) : (pushByte b s).rdata = s.rdata := by unfold pushByte; split <;> [skip; split] <;> rfl
@[simp] theorem pushByte_host (b : Byte) (s : State) : (pushByte b s).host = s.host := by unfold pushByte; split <;> [skip; split] <;> rfl
@[simp] theorem pushByte_cycle (b : Byte) (s : State) : (pushByte b s).cycle = s.cycle := by unfold pushByte; split <;> [skip; split] <;> rfl

/-! ### setClkdiv -/

@[simp] theorem setClkdiv_cfg (int : BitVec 16) (frac : BitVec 8) (s : State) : (setClkdiv int frac s).cfg = s.cfg := by unfold setClkdiv; split <;> rfl
@[simp] theorem setClkdiv_running (int : BitVec 16) (frac : BitVec 8) (s : State) : (setClkdiv int frac s).running = s.running := by unfold setClkdiv; split <;> rfl
@[simp] theorem setClkdiv_acc (int : BitVec 16) (frac : BitVec 8) (s : State) : (setClkdiv int frac s).acc = s.acc := by unfold setClkdiv; split <;> rfl
@[simp] theorem setClkdiv_phase (int : BitVec 16) (frac : BitVec 8) (s : State) : (setClkdiv int frac s).phase = s.phase := by unfold setClkdiv; split <;> rfl
@[simp] theorem setClkdiv_cnt (int : BitVec 16) (frac : BitVec 8) (s : State) : (setClkdiv int frac s).cnt = s.cnt := by unfold setClkdiv; split <;> rfl
@[simp] theorem setClkdiv_shift (int : BitVec 16) (frac : BitVec 8) (s : State) : (setClkdiv int frac s).shift = s.shift := by unfold setClkdiv; split <;> rfl
@[simp] theorem setClkdiv_txq (int : BitVec 16) (frac : BitVec 8) (s : State) : (setClkdiv int frac s).txq = s.txq := by unfold setClkdiv; split <;> rfl
@[simp] theorem setClkdiv_rpend (int : BitVec 16) (frac : BitVec 8) (s : State) : (setClkdiv int frac s).rpend = s.rpend := by unfold setClkdiv; split <;> rfl
@[simp] theorem setClkdiv_errTxover (int : BitVec 16) (frac : BitVec 8) (s : State) : (setClkdiv int frac s).errTxover = s.errTxover := by unfold setClkdiv; split <;> rfl
@[simp] theorem setClkdiv_errClk (int : BitVec 16) (frac : BitVec 8) (s : State) : (setClkdiv int frac s).errClk = s.errClk := by unfold setClkdiv; split <;> rfl
@[simp] theorem setClkdiv_errCmd (int : BitVec 16) (frac : BitVec 8) (s : State) : (setClkdiv int frac s).errCmd = s.errCmd := by unfold setClkdiv; split <;> rfl
@[simp] theorem setClkdiv_stuck (int : BitVec 16) (frac : BitVec 8) (s : State) : (setClkdiv int frac s).stuck = s.stuck := by unfold setClkdiv; split <;> rfl
@[simp] theorem setClkdiv_rdata (int : BitVec 16) (frac : BitVec 8) (s : State) : (setClkdiv int frac s).rdata = s.rdata := by unfold setClkdiv; split <;> rfl
@[simp] theorem setClkdiv_host (int : BitVec 16) (frac : BitVec 8) (s : State) : (setClkdiv int frac s).host = s.host := by unfold setClkdiv; split <;> rfl
@[simp] theorem setClkdiv_cycle (int : BitVec 16) (frac : BitVec 8) (s : State) : (setClkdiv int frac s).cycle = s.cycle := by unfold setClkdiv; split <;> rfl

/-! ### enable -/

@[simp] theorem enable_cfg (s : State) : (enable s).cfg = s.cfg := by unfold enable; split <;> [skip; split] <;> rfl
@[simp] theorem enable_clkdiv (s : State) : (enable s).clkdiv = s.clkdiv := by unfold enable; split <;> [skip; split] <;> rfl
@[simp] theorem enable_phase (s : State) : (enable s).phase = s.phase := by unfold enable; split <;> [skip; split] <;> rfl
@[simp] theorem enable_cnt (s : State) : (enable s).cnt = s.cnt := by unfold enable; split <;> [skip; split] <;> rfl
@[simp] theorem enable_shift (s : State) : (enable s).shift = s.shift := by unfold enable; split <;> [skip; split] <;> rfl
@[simp] theorem enable_txq (s : State) : (enable s).txq = s.txq := by unfold enable; split <;> [skip; split] <;> rfl
@[simp] theorem enable_rpend (s : State) : (enable s).rpend = s.rpend := by unfold enable; split <;> [skip; split] <;> rfl
@[simp] theorem enable_errTxover (s : State) : (enable s).errTxover = s.errTxover := by unfold enable; split <;> [skip; split] <;> rfl
@[simp] theorem enable_errCmd (s : State) : (enable s).errCmd = s.errCmd := by unfold enable; split <;> [skip; split] <;> rfl
@[simp] theorem enable_stuck (s : State) : (enable s).stuck = s.stuck := by unfold enable; split <;> [skip; split] <;> rfl
@[simp] theorem enable_rdata (s : State) : (enable s).rdata = s.rdata := by unfold enable; split <;> [skip; split] <;> rfl
@[simp] theorem enable_host (s : State) : (enable s).host = s.host := by unfold enable; split <;> [skip; split] <;> rfl
@[simp] theorem enable_cycle (s : State) : (enable s).cycle = s.cycle := by unfold enable; split <;> [skip; split] <;> rfl

/-! ### restart -/

@[simp] theorem restart_cfg (s : State) : (restart s).cfg = s.cfg := by unfold restart; split <;> rfl
@[simp] theorem restart_running (s : State) : (restart s).running = s.running := by unfold restart; split <;> rfl
@[simp] theorem restart_clkdiv (s : State) : (restart s).clkdiv = s.clkdiv := by unfold restart; split <;> rfl
@[simp] theorem restart_acc (s : State) : (restart s).acc = s.acc := by unfold restart; split <;> rfl
@[simp] theorem restart_phase (s : State) : (restart s).phase = s.phase := by unfold restart; split <;> rfl
@[simp] theorem restart_cnt (s : State) : (restart s).cnt = s.cnt := by unfold restart; split <;> rfl
@[simp] theorem restart_shift (s : State) : (restart s).shift = s.shift := by unfold restart; split <;> rfl
@[simp] theorem restart_txq (s : State) : (restart s).txq = s.txq := by unfold restart; split <;> rfl
@[simp] theorem restart_errTxover (s : State) : (restart s).errTxover = s.errTxover := by unfold restart; split <;> rfl
@[simp] theorem restart_errClk (s : State) : (restart s).errClk = s.errClk := by unfold restart; split <;> rfl
@[simp] theorem restart_errCmd (s : State) : (restart s).errCmd = s.errCmd := by unfold restart; split <;> rfl
@[simp] theorem restart_stuck (s : State) : (restart s).stuck = s.stuck := by unfold restart; split <;> rfl
@[simp] theorem restart_rdata (s : State) : (restart s).rdata = s.rdata := by unfold restart; split <;> rfl
@[simp] theorem restart_host (s : State) : (restart s).host = s.host := by unfold restart; split <;> rfl
@[simp] theorem restart_cycle (s : State) : (restart s).cycle = s.cycle := by unfold restart; split <;> rfl

/-! ### dispatch -/

@[simp] theorem dispatch_cfg (s : State) : (dispatch s).cfg = s.cfg := by unfold dispatch; split <;> [skip; split] <;> rfl
@[simp] theorem dispatch_running (s : State) : (dispatch s).running = s.running := by unfold dispatch; split <;> [skip; split] <;> rfl
@[simp] theorem dispatch_clkdiv (s : State) : (dispatch s).clkdiv = s.clkdiv := by unfold dispatch; split <;> [skip; split] <;> rfl
@[simp] theorem dispatch_acc (s : State) : (dispatch s).acc = s.acc := by unfold dispatch; split <;> [skip; split] <;> rfl
@[simp] theorem dispatch_errTxover (s : State) : (dispatch s).errTxover = s.errTxover := by unfold dispatch; split <;> [skip; split] <;> rfl
@[simp] theorem dispatch_errState (s : State) : (dispatch s).errState = s.errState := by unfold dispatch; split <;> [skip; split] <;> rfl
@[simp] theorem dispatch_errClk (s : State) : (dispatch s).errClk = s.errClk := by unfold dispatch; split <;> [skip; split] <;> rfl
@[simp] theorem dispatch_errCmd (s : State) : (dispatch s).errCmd = s.errCmd := by unfold dispatch; split <;> [skip; split] <;> rfl
@[simp] theorem dispatch_stuck (s : State) : (dispatch s).stuck = s.stuck := by unfold dispatch; split <;> [skip; split] <;> rfl
@[simp] theorem dispatch_rdata (s : State) : (dispatch s).rdata = s.rdata := by unfold dispatch; split <;> [skip; split] <;> rfl
@[simp] theorem dispatch_host (s : State) : (dispatch s).host = s.host := by unfold dispatch; split <;> [skip; split] <;> rfl
@[simp] theorem dispatch_cycle (s : State) : (dispatch s).cycle = s.cycle := by unfold dispatch; split <;> [skip; split] <;> rfl
@[simp] theorem dispatch_ledger (s : State) : (dispatch s).ledger = s.ledger := by unfold dispatch; split <;> [skip; split] <;> rfl

/-! ### beginCycle -/

@[simp] theorem beginCycle_cfg (s : State) : (beginCycle s).cfg = s.cfg := rfl
@[simp] theorem beginCycle_running (s : State) : (beginCycle s).running = s.running := rfl
@[simp] theorem beginCycle_clkdiv (s : State) : (beginCycle s).clkdiv = s.clkdiv := rfl
@[simp] theorem beginCycle_acc (s : State) : (beginCycle s).acc = s.acc := rfl
@[simp] theorem beginCycle_phase (s : State) : (beginCycle s).phase = s.phase := rfl
@[simp] theorem beginCycle_cnt (s : State) : (beginCycle s).cnt = s.cnt := rfl
@[simp] theorem beginCycle_shift (s : State) : (beginCycle s).shift = s.shift := rfl
@[simp] theorem beginCycle_txq (s : State) : (beginCycle s).txq = s.txq := rfl
@[simp] theorem beginCycle_rpend (s : State) : (beginCycle s).rpend = s.rpend := rfl
@[simp] theorem beginCycle_errTxover (s : State) : (beginCycle s).errTxover = s.errTxover := rfl
@[simp] theorem beginCycle_errState (s : State) : (beginCycle s).errState = s.errState := rfl
@[simp] theorem beginCycle_errClk (s : State) : (beginCycle s).errClk = s.errClk := rfl
@[simp] theorem beginCycle_errCmd (s : State) : (beginCycle s).errCmd = s.errCmd := rfl
@[simp] theorem beginCycle_stuck (s : State) : (beginCycle s).stuck = s.stuck := rfl
@[simp] theorem beginCycle_host (s : State) : (beginCycle s).host = s.host := rfl
@[simp] theorem beginCycle_cycle (s : State) : (beginCycle s).cycle = s.cycle := rfl
@[simp] theorem beginCycle_ledger (s : State) : (beginCycle s).ledger = s.ledger := rfl

/-! ### endCycle -/

@[simp] theorem endCycle_cfg (s : State) : (endCycle s).cfg = s.cfg := rfl
@[simp] theorem endCycle_running (s : State) : (endCycle s).running = s.running := rfl
@[simp] theorem endCycle_clkdiv (s : State) : (endCycle s).clkdiv = s.clkdiv := rfl
@[simp] theorem endCycle_acc (s : State) : (endCycle s).acc = s.acc := rfl
@[simp] theorem endCycle_phase (s : State) : (endCycle s).phase = s.phase := rfl
@[simp] theorem endCycle_cnt (s : State) : (endCycle s).cnt = s.cnt := rfl
@[simp] theorem endCycle_shift (s : State) : (endCycle s).shift = s.shift := rfl
@[simp] theorem endCycle_txq (s : State) : (endCycle s).txq = s.txq := rfl
@[simp] theorem endCycle_rpend (s : State) : (endCycle s).rpend = s.rpend := rfl
@[simp] theorem endCycle_errTxover (s : State) : (endCycle s).errTxover = s.errTxover := rfl
@[simp] theorem endCycle_errState (s : State) : (endCycle s).errState = s.errState := rfl
@[simp] theorem endCycle_errClk (s : State) : (endCycle s).errClk = s.errClk := rfl
@[simp] theorem endCycle_errCmd (s : State) : (endCycle s).errCmd = s.errCmd := rfl
@[simp] theorem endCycle_stuck (s : State) : (endCycle s).stuck = s.stuck := rfl
@[simp] theorem endCycle_rdata (s : State) : (endCycle s).rdata = s.rdata := rfl
@[simp] theorem endCycle_ledger (s : State) : (endCycle s).ledger = s.ledger := rfl

/-! ### What the plain updates write -/

@[simp] theorem recordFault_ledger (e : ModelFault) (s : State) :
    (recordFault e s).ledger = s.ledger ++ [{ cycle := s.cycle, err := e }] := rfl
@[simp] theorem raiseErr_ledger (e : ModelFault) (s : State) :
    (raiseErr e s).ledger = s.ledger ++ [{ cycle := s.cycle, err := e }] := by cases e <;> rfl
@[simp] theorem raiseErr_errTxover (e : ModelFault) (s : State) :
    (raiseErr e s).errTxover = (s.errTxover || e == .errTxover) := by cases e <;> simp [raiseErr, recordFault, setErrFlag]
@[simp] theorem raiseErr_errState (e : ModelFault) (s : State) :
    (raiseErr e s).errState = (s.errState || e == .errState) := by cases e <;> simp [raiseErr, recordFault, setErrFlag]
@[simp] theorem raiseErr_errClk (e : ModelFault) (s : State) :
    (raiseErr e s).errClk = (s.errClk || e == .errClk) := by cases e <;> simp [raiseErr, recordFault, setErrFlag]
@[simp] theorem raiseErr_errCmd (e : ModelFault) (s : State) :
    (raiseErr e s).errCmd = (s.errCmd || e == .errCmd) := by cases e <;> simp [raiseErr, recordFault, setErrFlag]
@[simp] theorem badPhaseStop_stuck (s : State) : (badPhaseStop s).stuck = true := rfl
@[simp] theorem badPhaseStop_ledger (s : State) :
    (badPhaseStop s).ledger = s.ledger ++ [{ cycle := s.cycle, err := .badPhase }] := rfl
@[simp] theorem qPush_txq (b : Byte) (s : State) : (qPush b s).txq = s.txq ++ [b] := rfl
@[simp] theorem respond_rdata (v : Word) (s : State) : (respond v s).rdata = v := rfl
@[simp] theorem beginCycle_rdata (s : State) : (beginCycle s).rdata = 0#32 := rfl
@[simp] theorem endCycle_host (s : State) : (endCycle s).host = hostAfter s.host s.rdata := rfl
@[simp] theorem endCycle_cycle (s : State) : (endCycle s).cycle = s.cycle + 1 := rfl

/-! ### applyReset -/

@[simp] theorem applyReset_cfg (s : State) : (applyReset s).cfg = s.cfg := rfl
@[simp] theorem applyReset_running (s : State) : (applyReset s).running = false := rfl
@[simp] theorem applyReset_clkdiv (s : State) : (applyReset s).clkdiv = { int := 0#16, frac := 0#8 } := rfl
@[simp] theorem applyReset_acc (s : State) : (applyReset s).acc = 0#25 := rfl
@[simp] theorem applyReset_phase (s : State) : (applyReset s).phase = phIdle := rfl
@[simp] theorem applyReset_cnt (s : State) : (applyReset s).cnt = 0#8 := rfl
@[simp] theorem applyReset_shift (s : State) : (applyReset s).shift = 0#8 := rfl
@[simp] theorem applyReset_txq (s : State) : (applyReset s).txq = [] := rfl
@[simp] theorem applyReset_rpend (s : State) : (applyReset s).rpend = false := rfl
@[simp] theorem applyReset_errTxover (s : State) : (applyReset s).errTxover = false := rfl
@[simp] theorem applyReset_errState (s : State) : (applyReset s).errState = false := rfl
@[simp] theorem applyReset_errClk (s : State) : (applyReset s).errClk = false := rfl
@[simp] theorem applyReset_errCmd (s : State) : (applyReset s).errCmd = false := rfl
@[simp] theorem applyReset_stuck (s : State) : (applyReset s).stuck = false := rfl
@[simp] theorem applyReset_rdata (s : State) : (applyReset s).rdata = 0#32 := rfl
@[simp] theorem applyReset_host (s : State) : (applyReset s).host = s.host := rfl
@[simp] theorem applyReset_cycle (s : State) : (applyReset s).cycle = s.cycle := rfl
@[simp] theorem applyReset_ledger (s : State) : (applyReset s).ledger = s.ledger := rfl

/-! ### What the status bits and D256 depend on -/

theorem d256_congr {s t : State} (h : t.clkdiv = s.clkdiv) : d256 t = d256 s := by simp [d256, h]
theorem qLevel_congr {s t : State} (h : t.txq = s.txq) : qLevel t = qLevel s := by simp [qLevel, h]
theorem txqDepth_congr {s t : State} (h : t.cfg = s.cfg) : txqDepth t = txqDepth s := by simp [txqDepth, h]
theorem txqFull_congr {s t : State} (hq : t.txq = s.txq) (hc : t.cfg = s.cfg) : txqFull t = txqFull s := by
  simp [txqFull, qLevel, txqDepth, hq, hc]
theorem busIn_congr {s t : State} (h : t.host = s.host) : busIn t = busIn s := by simp [busIn, h]
@[simp] theorem busIn_beginCycle (s : State) : busIn (beginCycle s) = busIn s := rfl

/-- `D256 = INT * 256 + FRAC` (R112). -/
theorem d256_toNat (s : State) : (d256 s).toNat = s.clkdiv.int.toNat * 256 + s.clkdiv.frac.toNat := by
  rw [d256, BitVec.toNat_append, Nat.shiftLeft_eq, Nat.mul_comm, ← Nat.two_pow_add_eq_or_of_lt s.clkdiv.frac.isLt]

/-- `INT != 0` is `D256 >= 256` (R113). -/
theorem int_ne_zero_iff (s : State) : s.clkdiv.int ≠ 0#16 ↔ 256 ≤ (d256 s).toNat := by
  have hf := s.clkdiv.frac.isLt
  rw [d256_toNat, Ne, ← BitVec.toNat_inj]
  simp only [BitVec.toNat_ofNat]
  omega

end Sys2Proof.Machine
end

