-- ==== Sys2Proof/Laws/Ops.lean ====
section
/-! SUPPORT. One lemma per shared operation that says once everything it can do. -/

namespace Sys2Proof.Machine

@[simp] theorem andThen_next (s : State) (f : State → Result) : andThen (.next s) f = f s := rfl

/-- A sequence that ends in a next state went through one. -/
theorem andThen_eq_next {r : Result} {f : State → Result} {t : State} (h : andThen r f = .next t) :
    ∃ u, r = .next u ∧ f u = .next t := by
  cases r with
  | next u => exact ⟨u, rfl, h⟩
  | fault e => cases h
  | refused e => cases h

/-! ### The divider (R110) -/

/-- On a tick the divisor is taken off; otherwise 256 is added. -/
theorem divider_cases (acc : BitVec 25) (d : BitVec 24) (h : acc.toNat < d.toNat) :
    (d.toNat ≤ acc.toNat + 256 ∧ (divider acc d).1 = true ∧ (divider acc d).2.toNat = acc.toNat + 256 - d.toNat) ∨
    (acc.toNat + 256 < d.toNat ∧ (divider acc d).1 = false ∧ (divider acc d).2.toNat = acc.toNat + 256) := by
  have hd := d.isLt
  unfold divider
  split
  · refine .inl ⟨‹_›, rfl, ?_⟩
    simp only [BitVec.toNat_ofNat]
    omega
  · refine .inr ⟨by omega, rfl, ?_⟩
    simp only [BitVec.toNat_ofNat]
    omega

/-- The accumulator stays below a legal divisor (R25). -/
theorem divider_lt (acc : BitVec 25) (d : BitVec 24) (hd : 256 ≤ d.toNat) (h : acc.toNat < d.toNat) :
    (divider acc d).2.toNat < d.toNat := by
  rcases divider_cases acc d h with ⟨_, _, h2⟩ | ⟨_, _, h2⟩ <;> omega

/-- At a divisor of 1.0 every cycle has a tick and the accumulator stays 0 (vector V1). -/
theorem divider_one : divider 0#25 256#24 = (true, 0#25) := by decide

/-! ### Dispatch (R93) -/

theorem dispatch_rpend {s : State} (h : s.rpend = true) :
    dispatch s = { s with phase := phBreak, cnt := 87#8, rpend := false } := by simp [dispatch, h, Config.breakBits]

theorem dispatch_cons {s : State} {b : Byte} {rest : List Byte} (h : s.rpend = false) (hq : s.txq = b :: rest) :
    dispatch s = { s with shift := b, txq := rest, phase := phStart } := by simp [dispatch, h, hq]

theorem dispatch_nil {s : State} (h : s.rpend = false) (hq : s.txq = []) :
    dispatch s = { s with phase := phIdle } := by simp [dispatch, h, hq]

/-- Everything a dispatch can do. -/
theorem dispatch_cases (s : State) :
    (s.rpend = true ∧ dispatch s = { s with phase := phBreak, cnt := 87#8, rpend := false }) ∨
    (∃ b rest, s.rpend = false ∧ s.txq = b :: rest ∧ dispatch s = { s with shift := b, txq := rest, phase := phStart }) ∨
    (s.rpend = false ∧ s.txq = [] ∧ dispatch s = { s with phase := phIdle }) := by
  by_cases h : s.rpend = true
  · exact .inl ⟨h, dispatch_rpend h⟩
  · have h' : s.rpend = false := by simpa using h
    rcases hq : s.txq with _ | ⟨b, rest⟩
    · exact .inr (.inr ⟨h', rfl, hq ▸ dispatch_nil h' hq⟩)
    · exact .inr (.inl ⟨b, rest, h', rfl, dispatch_cons h' hq⟩)

/-! ### Errors (R8, R31, R162) -/

theorem raise_errTxover (s : State) : raiseErr .errTxover s =
    { s with errTxover := true, ledger := s.ledger ++ [{ cycle := s.cycle, err := .errTxover }] } := rfl
theorem raise_errState (s : State) : raiseErr .errState s =
    { s with errState := true, ledger := s.ledger ++ [{ cycle := s.cycle, err := .errState }] } := rfl
theorem raise_errClk (s : State) : raiseErr .errClk s =
    { s with errClk := true, ledger := s.ledger ++ [{ cycle := s.cycle, err := .errClk }] } := rfl
theorem raise_errCmd (s : State) : raiseErr .errCmd s =
    { s with errCmd := true, ledger := s.ledger ++ [{ cycle := s.cycle, err := .errCmd }] } := rfl

/-! ### Host accesses -/

/-- Everything a PUSH can do (R130). -/
theorem pushByte_cases (b : Byte) (s : State) :
    (s.running = false ∧ pushByte b s = raiseErr .errState s) ∨
    (s.running = true ∧ qLevel s = txqDepth s ∧ pushByte b s = raiseErr .errTxover s) ∨
    (s.running = true ∧ qLevel s ≠ txqDepth s ∧ pushByte b s = qPush b s) := by
  unfold pushByte
  cases s.running <;> by_cases h : qLevel s = txqDepth s <;> simp [txqFull, h]

/-- Everything a CLKDIV write can do (R117). -/
theorem setClkdiv_cases (int : BitVec 16) (frac : BitVec 8) (s : State) :
    (s.running = true ∧ setClkdiv int frac s = raiseErr .errState s) ∨
    (s.running = false ∧ setClkdiv int frac s = { s with clkdiv := { int := int, frac := frac } }) := by
  unfold setClkdiv
  cases s.running <;> simp

/-- Everything an ENABLE can do (R118). -/
theorem enable_cases (s : State) :
    (s.running = true ∧ enable s = raiseErr .errState s) ∨
    (s.running = false ∧ s.clkdiv.int = 0#16 ∧ enable s = raiseErr .errClk s) ∨
    (s.running = false ∧ s.clkdiv.int ≠ 0#16 ∧ enable s = { s with running := true, acc := 0#25 }) := by
  unfold enable
  cases s.running <;> by_cases h : s.clkdiv.int = 0#16 <;> simp [h]

/-- Everything a RESTART can do (R136). -/
theorem restart_cases (s : State) :
    (s.running = false ∧ restart s = raiseErr .errState s) ∨
    (s.running = true ∧ restart s = { s with rpend := true }) := by
  unfold restart
  cases s.running <;> simp

/-- The line of each phase (R91). -/
theorem lineLevel_of_le {p : PhaseCode} (h : p.toNat ≤ 6) (n : BitVec 8) (b : Byte) : ∃ v, lineLevel p n b = some v := by
  unfold lineLevel
  split
  · exact ⟨_, rfl⟩
  iterate 6 (split; · exact ⟨_, rfl⟩)
  exfalso
  simp only [← BitVec.toNat_inj, BitVec.toNat_ofNat] at *
  omega

end Sys2Proof.Machine
end

