-- ==== Sys2Proof/Laws/Step.lean ====
section
/-! SUPPORT. What exec, a tick, the Engine's step and a whole cycle can do, said once. -/

namespace Sys2Proof.Machine

/-- Every instruction answers a next state: no meaning faults or refuses (R75, R160). -/
theorem exec_next (i : Instr) (s : State) : ∃ t, exec i s = .next t := by
  cases i with
  | tpBreak => simp only [exec, execTpBreak]; split <;> exact ⟨_, rfl⟩
  | tpMab => simp only [exec, execTpMab]; split <;> exact ⟨_, rfl⟩
  | tpData => simp only [exec, execTpData]; split <;> exact ⟨_, rfl⟩
  | _ => exact ⟨_, rfl⟩

/-- The state after an instruction. -/
def execNext (i : Instr) (s : State) : State :=
  match exec i s with
  | .next t => t
  | _ => s

theorem exec_eq (i : Instr) (s : State) : exec i s = .next (execNext i s) := by
  obtain ⟨t, h⟩ := exec_next i s
  simp [execNext, h]

/-! ### One tick -/

/-- The state after a tick (R90, R93 to R101). -/
def tickNext (s : State) : State := execNext (decodePhase s.phase) s

theorem tickStep_eq (s : State) : tickStep s = .next (tickNext s) := exec_eq _ _

theorem tickNext_idle {s : State} (h : s.phase = phIdle) : tickNext s = dispatch s := by
  rw [tickNext, h]; rfl

theorem tickNext_break {s : State} (h : s.phase = phBreak) :
    tickNext s = if s.cnt = 0#8 then { s with phase := phMab, cnt := 7#8 } else { s with cnt := s.cnt - 1#8 } := by
  rw [tickNext, h, show decodePhase phBreak = .tpBreak from rfl]
  by_cases hc : s.cnt = 0#8 <;> simp [execNext, exec, execTpBreak, Config.mabBits, hc, h]

theorem tickNext_mab {s : State} (h : s.phase = phMab) :
    tickNext s = if s.cnt = 0#8 then dispatch s else { s with cnt := s.cnt - 1#8 } := by
  rw [tickNext, h, show decodePhase phMab = .tpMab from rfl]
  by_cases hc : s.cnt = 0#8 <;> simp [execNext, exec, execTpMab, hc, h]

theorem tickNext_start {s : State} (h : s.phase = phStart) : tickNext s = { s with phase := phData, cnt := 0#8 } := by
  rw [tickNext, h]; rfl

theorem tickNext_data {s : State} (h : s.phase = phData) :
    tickNext s = if s.cnt = 7#8 then { s with phase := phStop1 } else { s with cnt := s.cnt + 1#8 } := by
  rw [tickNext, h, show decodePhase phData = .tpData from rfl]
  by_cases hc : s.cnt = 7#8 <;> simp [execNext, exec, execTpData, Config.dataBits, hc, h]

theorem tickNext_stop1 {s : State} (h : s.phase = phStop1) : tickNext s = { s with phase := phStop2 } := by
  rw [tickNext, h]; rfl

theorem tickNext_stop2 {s : State} (h : s.phase = phStop2) : tickNext s = dispatch s := by
  rw [tickNext, h]; rfl

/-- A tick in a reserved phase (R101). -/
theorem tickNext_reserved {s : State} (h : 7 ≤ s.phase.toNat) : tickNext s = badPhaseStop s := by
  have hne : ∀ k : PhaseCode, k.toNat < 7 → s.phase ≠ k := fun k hk e => by rw [e] at h; omega
  unfold tickNext decodePhase
  iterate 7 rw [if_neg (hne _ (by decide))]
  split <;> simp [execNext, exec, execTpReserved7, execTpReserved8_15]

/-- The seven legal phases and the rest. -/
theorem phase_cases (p : PhaseCode) :
    p = phIdle ∨ p = phBreak ∨ p = phMab ∨ p = phStart ∨ p = phData ∨ p = phStop1 ∨ p = phStop2 ∨ 7 ≤ p.toNat := by
  revert p
  decide

/-! ### The Engine's step in one cycle -/

/-- The state after the Engine's step (R90). -/
def engineNext (s : State) : State :=
  if engineOn s then
    if (divider s.acc (d256 s)).1 then tickNext { s with acc := (divider s.acc (d256 s)).2 }
    else { s with acc := (divider s.acc (d256 s)).2 }
  else s

theorem engineStep_eq (s : State) : engineStep s = .next (engineNext s) := by
  unfold engineStep engineNext
  split
  · split
    · exact tickStep_eq _
    · rfl
  · rfl

/-- A Stopped (or stuck) Engine does nothing (R92, R101). -/
theorem engineNext_off {s : State} (h : engineOn s = false) : engineNext s = s := by simp [engineNext, h]

/-- Without a tick only ACC changes (R90, vector V44). -/
theorem engineNext_noTick {s : State} (h : engineOn s = true) (ht : (divider s.acc (d256 s)).1 = false) :
    engineNext s = { s with acc := (divider s.acc (d256 s)).2 } := by simp [engineNext, h, ht]

/-- With a tick, ACC changes and the Timing Program takes one step (R90). -/
theorem engineNext_tick {s : State} (h : engineOn s = true) (ht : (divider s.acc (d256 s)).1 = true) :
    engineNext s = tickNext { s with acc := (divider s.acc (d256 s)).2 } := by simp [engineNext, h, ht]

/-! ### Frames of a tick and of the Engine -/

/-- Everything a tick can do, as one of the operations it ends in. -/
theorem tickNext_cases (s : State) :
    (s.phase = phIdle ∧ tickNext s = dispatch s) ∨
    (s.phase = phBreak ∧ s.cnt = 0#8 ∧ tickNext s = { s with phase := phMab, cnt := 7#8 }) ∨
    (s.phase = phBreak ∧ s.cnt ≠ 0#8 ∧ tickNext s = { s with cnt := s.cnt - 1#8 }) ∨
    (s.phase = phMab ∧ s.cnt = 0#8 ∧ tickNext s = dispatch s) ∨
    (s.phase = phMab ∧ s.cnt ≠ 0#8 ∧ tickNext s = { s with cnt := s.cnt - 1#8 }) ∨
    (s.phase = phStart ∧ tickNext s = { s with phase := phData, cnt := 0#8 }) ∨
    (s.phase = phData ∧ s.cnt = 7#8 ∧ tickNext s = { s with phase := phStop1 }) ∨
    (s.phase = phData ∧ s.cnt ≠ 7#8 ∧ tickNext s = { s with cnt := s.cnt + 1#8 }) ∨
    (s.phase = phStop1 ∧ tickNext s = { s with phase := phStop2 }) ∨
    (s.phase = phStop2 ∧ tickNext s = dispatch s) ∨
    (7 ≤ s.phase.toNat ∧ tickNext s = badPhaseStop s) := by
  rcases phase_cases s.phase with h | h | h | h | h | h | h | h
  · simp [h, tickNext_idle h]
  · by_cases hc : s.cnt = 0#8 <;> simp [h, hc, tickNext_break h]
  · by_cases hc : s.cnt = 0#8 <;> simp [h, hc, tickNext_mab h]
  · simp [h, tickNext_start h]
  · by_cases hc : s.cnt = 7#8 <;> simp [h, hc, tickNext_data h]
  · simp [h, tickNext_stop1 h]
  · simp [h, tickNext_stop2 h]
  · simp [h, tickNext_reserved h]

@[simp] theorem tickNext_cfg (s : State) : (tickNext s).cfg = s.cfg := by
  rcases tickNext_cases s with ⟨_, h⟩ | ⟨_, _, h⟩ | ⟨_, _, h⟩ | ⟨_, _, h⟩ | ⟨_, _, h⟩ | ⟨_, h⟩ | ⟨_, _, h⟩ | ⟨_, _, h⟩ | ⟨_, h⟩ |
    ⟨_, h⟩ | ⟨_, h⟩ <;> simp [h]
@[simp] theorem tickNext_running (s : State) : (tickNext s).running = s.running := by
  rcases tickNext_cases s with ⟨_, h⟩ | ⟨_, _, h⟩ | ⟨_, _, h⟩ | ⟨_, _, h⟩ | ⟨_, _, h⟩ | ⟨_, h⟩ | ⟨_, _, h⟩ | ⟨_, _, h⟩ | ⟨_, h⟩ |
    ⟨_, h⟩ | ⟨_, h⟩ <;> simp [h]
@[simp] theorem tickNext_clkdiv (s : State) : (tickNext s).clkdiv = s.clkdiv := by
  rcases tickNext_cases s with ⟨_, h⟩ | ⟨_, _, h⟩ | ⟨_, _, h⟩ | ⟨_, _, h⟩ | ⟨_, _, h⟩ | ⟨_, h⟩ | ⟨_, _, h⟩ | ⟨_, _, h⟩ | ⟨_, h⟩ |
    ⟨_, h⟩ | ⟨_, h⟩ <;> simp [h]
@[simp] theorem tickNext_errTxover (s : State) : (tickNext s).errTxover = s.errTxover := by
  rcases tickNext_cases s with ⟨_, h⟩ | ⟨_, _, h⟩ | ⟨_, _, h⟩ | ⟨_, _, h⟩ | ⟨_, _, h⟩ | ⟨_, h⟩ | ⟨_, _, h⟩ | ⟨_, _, h⟩ | ⟨_, h⟩ |
    ⟨_, h⟩ | ⟨_, h⟩ <;> simp [h]
@[simp] theorem tickNext_errState (s : State) : (tickNext s).errState = s.errState := by
  rcases tickNext_cases s with ⟨_, h⟩ | ⟨_, _, h⟩ | ⟨_, _, h⟩ | ⟨_, _, h⟩ | ⟨_, _, h⟩ | ⟨_, h⟩ | ⟨_, _, h⟩ | ⟨_, _, h⟩ | ⟨_, h⟩ |
    ⟨_, h⟩ | ⟨_, h⟩ <;> simp [h]
@[simp] theorem tickNext_errClk (s : State) : (tickNext s).errClk = s.errClk := by
  rcases tickNext_cases s with ⟨_, h⟩ | ⟨_, _, h⟩ | ⟨_, _, h⟩ | ⟨_, _, h⟩ | ⟨_, _, h⟩ | ⟨_, h⟩ | ⟨_, _, h⟩ | ⟨_, _, h⟩ | ⟨_, h⟩ |
    ⟨_, h⟩ | ⟨_, h⟩ <;> simp [h]
@[simp] theorem tickNext_errCmd (s : State) : (tickNext s).errCmd = s.errCmd := by
  rcases tickNext_cases s with ⟨_, h⟩ | ⟨_, _, h⟩ | ⟨_, _, h⟩ | ⟨_, _, h⟩ | ⟨_, _, h⟩ | ⟨_, h⟩ | ⟨_, _, h⟩ | ⟨_, _, h⟩ | ⟨_, h⟩ |
    ⟨_, h⟩ | ⟨_, h⟩ <;> simp [h]
@[simp] theorem tickNext_rdata (s : State) : (tickNext s).rdata = s.rdata := by
  rcases tickNext_cases s with ⟨_, h⟩ | ⟨_, _, h⟩ | ⟨_, _, h⟩ | ⟨_, _, h⟩ | ⟨_, _, h⟩ | ⟨_, h⟩ | ⟨_, _, h⟩ | ⟨_, _, h⟩ | ⟨_, h⟩ |
    ⟨_, h⟩ | ⟨_, h⟩ <;> simp [h]
@[simp] theorem tickNext_host (s : State) : (tickNext s).host = s.host := by
  rcases tickNext_cases s with ⟨_, h⟩ | ⟨_, _, h⟩ | ⟨_, _, h⟩ | ⟨_, _, h⟩ | ⟨_, _, h⟩ | ⟨_, h⟩ | ⟨_, _, h⟩ | ⟨_, _, h⟩ | ⟨_, h⟩ |
    ⟨_, h⟩ | ⟨_, h⟩ <;> simp [h]
@[simp] theorem tickNext_cycle (s : State) : (tickNext s).cycle = s.cycle := by
  rcases tickNext_cases s with ⟨_, h⟩ | ⟨_, _, h⟩ | ⟨_, _, h⟩ | ⟨_, _, h⟩ | ⟨_, _, h⟩ | ⟨_, h⟩ | ⟨_, _, h⟩ | ⟨_, _, h⟩ | ⟨_, h⟩ |
    ⟨_, h⟩ | ⟨_, h⟩ <;> simp [h]

@[simp] theorem tickNext_acc (s : State) : (tickNext s).acc = s.acc := by
  rcases tickNext_cases s with ⟨_, h⟩ | ⟨_, _, h⟩ | ⟨_, _, h⟩ | ⟨_, _, h⟩ | ⟨_, _, h⟩ | ⟨_, h⟩ | ⟨_, _, h⟩ | ⟨_, _, h⟩ | ⟨_, h⟩ |
    ⟨_, h⟩ | ⟨_, h⟩ <;> simp [h]

@[simp] theorem engineNext_cfg (s : State) : (engineNext s).cfg = s.cfg := by
  unfold engineNext; split <;> [split; skip] <;> simp
@[simp] theorem engineNext_running (s : State) : (engineNext s).running = s.running := by
  unfold engineNext; split <;> [split; skip] <;> simp
@[simp] theorem engineNext_clkdiv (s : State) : (engineNext s).clkdiv = s.clkdiv := by
  unfold engineNext; split <;> [split; skip] <;> simp
@[simp] theorem engineNext_errTxover (s : State) : (engineNext s).errTxover = s.errTxover := by
  unfold engineNext; split <;> [split; skip] <;> simp
@[simp] theorem engineNext_errState (s : State) : (engineNext s).errState = s.errState := by
  unfold engineNext; split <;> [split; skip] <;> simp
@[simp] theorem engineNext_errClk (s : State) : (engineNext s).errClk = s.errClk := by
  unfold engineNext; split <;> [split; skip] <;> simp
@[simp] theorem engineNext_errCmd (s : State) : (engineNext s).errCmd = s.errCmd := by
  unfold engineNext; split <;> [split; skip] <;> simp
@[simp] theorem engineNext_rdata (s : State) : (engineNext s).rdata = s.rdata := by
  unfold engineNext; split <;> [split; skip] <;> simp
@[simp] theorem engineNext_host (s : State) : (engineNext s).host = s.host := by
  unfold engineNext; split <;> [split; skip] <;> simp
@[simp] theorem engineNext_cycle (s : State) : (engineNext s).cycle = s.cycle := by
  unfold engineNext; split <;> [split; skip] <;> simp

/-! ### One cycle -/

/-- Everything a cycle can do (R90): reset, no access, a write after the Engine's step, a read before it. -/
theorem step_cases {s t : State} (h : step s = .next t) :
    ((busIn s).rst = true ∧ t = endCycle (applyReset s)) ∨
    ((busIn s).rst = false ∧ (busIn s).haw = none ∧ t = endCycle (engineNext (beginCycle s))) ∨
    (∃ w, (busIn s).rst = false ∧ (busIn s).haw = some w ∧ hawWr w = true ∧
      t = endCycle (execNext (decodeHaw w) (engineNext (beginCycle s)))) ∨
    (∃ w, (busIn s).rst = false ∧ (busIn s).haw = some w ∧ hawWr w = false ∧
      t = endCycle (engineNext (execNext (decodeHaw w) (beginCycle s)))) := by
  unfold step cycleStep at h
  cases hr : (busIn s).rst with
  | true =>
    simp only [hr, if_true] at h
    cases h
    exact .inl ⟨rfl, rfl⟩
  | false =>
    simp only [hr, Bool.false_eq_true, if_false] at h
    cases hw : (busIn s).haw with
    | none =>
      simp only [hw, cycleIdle, engineStep_eq, andThen_next] at h
      cases h
      exact .inr (.inl ⟨rfl, rfl, rfl⟩)
    | some w =>
      cases hb : hawWr w with
      | true =>
        simp only [hw, hb, if_true, cycleWrite, engineStep_eq, andThen_next, exec_eq] at h
        cases h
        exact .inr (.inr (.inl ⟨w, rfl, rfl, hb, rfl⟩))
      | false =>
        simp only [hw, hb, Bool.false_eq_true, if_false, cycleRead, engineStep_eq, andThen_next, exec_eq] at h
        cases h
        exact .inr (.inr (.inr ⟨w, rfl, rfl, hb, rfl⟩))

end Sys2Proof.Machine
end

