-- ==== Sys2Proof/Laws/Access.lean ====
section
/-! SUPPORT. What a Host Access Word does, by its fields: the instruction it decodes to, and the state after it. -/

namespace Sys2Proof.Machine

theorem decodeHaw_of_read {w : Haw} (h : hawWr w = false) :
    decodeHaw w = decodeRead (hawReg w) (hawAddrLow w) (hawData w) := by simp [decodeHaw, h]

theorem decodeHaw_of_write {w : Haw} (h : hawWr w = true) :
    decodeHaw w = decodeWrite (hawReg w) (hawAddrLow w) (hawData w) := by simp [decodeHaw, h]

/-- A read answers some word and changes nothing else (R56). -/
theorem read_cases (w : Haw) (s : State) (h : hawWr w = false) : ∃ v, execNext (decodeHaw w) s = respond v s := by
  rw [decodeHaw_of_read h]
  unfold decodeRead
  iterate 8 (split; · exact ⟨_, rfl⟩)
  exact ⟨_, rfl⟩

/-- Everything a write can do, by the word index it selects (R32, R35). -/
theorem write_cases (w : Haw) (s : State) (h : hawWr w = true) :
    (hawReg w = 0#5 ∧ execNext (decodeHaw w) s = pushByte (opByte (hawData w)) s) ∨
    (hawReg w = 1#5 ∧ execNext (decodeHaw w) s = clearErrors (opClearMask (hawData w)) s) ∨
    (hawReg w = 2#5 ∧ execNext (decodeHaw w) s = setClkdiv (opInt (hawData w)) (opFrac (hawData w)) s) ∨
    (hawReg w = 3#5 ∧ opCode (hawData w) = 0#4 ∧ execNext (decodeHaw w) s = s) ∨
    (hawReg w = 3#5 ∧ opCode (hawData w) = 1#4 ∧ execNext (decodeHaw w) s = enable s) ∨
    (hawReg w = 3#5 ∧ opCode (hawData w) = 2#4 ∧ execNext (decodeHaw w) s = restart s) ∨
    (hawReg w = 3#5 ∧ 3 ≤ (opCode (hawData w)).toNat ∧ execNext (decodeHaw w) s = raiseErr .errCmd s) ∨
    (4 ≤ (hawReg w).toNat ∧ execNext (decodeHaw w) s = s) := by
  rw [decodeHaw_of_write h]
  have hcode : ∀ c : BitVec 4, c = 0#4 ∨ c = 1#4 ∨ c = 2#4 ∨ (c ≠ 0#4 ∧ c ≠ 1#4 ∧ c ≠ 2#4 ∧ 3 ≤ c.toNat) := by decide
  have hreg : ∀ r : BitVec 5, r = 0#5 ∨ r = 1#5 ∨ r = 2#5 ∨ r = 3#5 ∨
      (r ≠ 0#5 ∧ r ≠ 1#5 ∧ r ≠ 2#5 ∧ r ≠ 3#5 ∧ 4 ≤ r.toNat) := by decide
  unfold decodeWrite
  rcases hreg (hawReg w) with e | e | e | e | ⟨e0, e1, e2, e3, e4⟩
  · exact .inl ⟨e, by rw [if_pos e]; rfl⟩
  · exact .inr (.inl ⟨e, by rw [e]; rfl⟩)
  · exact .inr (.inr (.inl ⟨e, by rw [e]; rfl⟩))
  · rw [e]
    simp only [show (3#5 = 0#5) = False from by simp, show (3#5 = 1#5) = False from by simp,
      show (3#5 = 2#5) = False from by simp, if_false, if_true]
    unfold decodeCommand
    rcases hcode (opCode (hawData w)) with c | c | c | ⟨c0, c1, c2, c3⟩
    · exact .inr (.inr (.inr (.inl ⟨trivial, c, by rw [c]; rfl⟩)))
    · exact .inr (.inr (.inr (.inr (.inl ⟨trivial, c, by rw [c]; rfl⟩))))
    · exact .inr (.inr (.inr (.inr (.inr (.inl ⟨trivial, c, by rw [c]; rfl⟩)))))
    · refine .inr (.inr (.inr (.inr (.inr (.inr (.inl ⟨trivial, c3, ?_⟩))))))
      rw [if_neg c0, if_neg c1, if_neg c2]
      split
      · rfl
      · split <;> rfl
  · refine .inr (.inr (.inr (.inr (.inr (.inr (.inr ⟨e4, ?_⟩))))))
    rw [if_neg e0, if_neg e1, if_neg e2, if_neg e3]
    iterate 4 (split; · rfl)
    rfl

/-! ### From the instruction back to the fields -/

/-- The encoder writes back the fields of a read. -/
theorem encode_decodeRead (reg : BitVec 5) (aa : BitVec 2) (data : Word) :
    encode (decodeRead reg aa data) = .haw (mkHaw false reg aa data) := by
  unfold decodeRead
  by_cases h0 : reg = 0#5
  · rw [if_pos h0, h0]; rfl
  by_cases h1 : reg = 1#5
  · rw [if_neg h0, if_pos h1, h1]; rfl
  by_cases h2 : reg = 2#5
  · rw [if_neg h0, if_neg h1, if_pos h2, h2]; rfl
  by_cases h3 : reg = 3#5
  · rw [if_neg h0, if_neg h1, if_neg h2, if_pos h3, h3]; rfl
  by_cases h4 : reg = 4#5
  · rw [if_neg h0, if_neg h1, if_neg h2, if_neg h3, if_pos h4, h4]; rfl
  by_cases h5 : reg = 5#5
  · rw [if_neg h0, if_neg h1, if_neg h2, if_neg h3, if_neg h4, if_pos h5, h5]; rfl
  rw [if_neg h0, if_neg h1, if_neg h2, if_neg h3, if_neg h4, if_neg h5]
  by_cases h7 : reg.toNat ≤ 7
  · rw [if_pos h7]; rfl
  by_cases h15 : reg.toNat ≤ 15
  · rw [if_neg h7, if_pos h15]; rfl
  · rw [if_neg h7, if_neg h15]; rfl

/-- The encoder writes back the fields of a command. -/
theorem encode_decodeCommand (aa : BitVec 2) (data : Word) :
    encode (decodeCommand aa data) = .haw (mkHaw true 3#5 aa data) := by
  have h : ∀ c, opCode data = c → opAboveCode data ++ c = data := fun c e => e ▸ code_fields data
  unfold decodeCommand
  by_cases h0 : opCode data = 0#4
  · rw [if_pos h0, encode, h _ h0]
  by_cases h1 : opCode data = 1#4
  · rw [if_neg h0, if_pos h1, encode, h _ h1]
  by_cases h2 : opCode data = 2#4
  · rw [if_neg h0, if_neg h1, if_pos h2, encode, h _ h2]
  by_cases h3 : opCode data = 3#4
  · rw [if_neg h0, if_neg h1, if_neg h2, if_pos h3, encode, h _ h3]
  rw [if_neg h0, if_neg h1, if_neg h2, if_neg h3]
  by_cases h7 : (opCode data).toNat ≤ 7
  · rw [if_pos h7, encode, h _ rfl]
  · rw [if_neg h7, encode, h _ rfl]

/-- The encoder writes back the fields of a write. -/
theorem encode_decodeWrite (reg : BitVec 5) (aa : BitVec 2) (data : Word) :
    encode (decodeWrite reg aa data) = .haw (mkHaw true reg aa data) := by
  unfold decodeWrite
  by_cases h0 : reg = 0#5
  · rw [if_pos h0, h0, encode]; exact congrArg (fun d => TableWord.haw (mkHaw true 0#5 aa d)) (byte_fields data)
  by_cases h1 : reg = 1#5
  · rw [if_neg h0, if_pos h1, h1, encode]; exact congrArg (fun d => TableWord.haw (mkHaw true 1#5 aa d)) (mask_fields data)
  by_cases h2 : reg = 2#5
  · rw [if_neg h0, if_neg h1, if_pos h2, h2, encode]
    exact congrArg (fun d => TableWord.haw (mkHaw true 2#5 aa d)) (clkdiv_fields data)
  by_cases h3 : reg = 3#5
  · rw [if_neg h0, if_neg h1, if_neg h2, if_pos h3, h3, encode_decodeCommand]
  by_cases h4 : reg = 4#5
  · rw [if_neg h0, if_neg h1, if_neg h2, if_neg h3, if_pos h4, h4]; rfl
  by_cases h5 : reg = 5#5
  · rw [if_neg h0, if_neg h1, if_neg h2, if_neg h3, if_neg h4, if_pos h5, h5]; rfl
  rw [if_neg h0, if_neg h1, if_neg h2, if_neg h3, if_neg h4, if_neg h5]
  by_cases h7 : reg.toNat ≤ 7
  · rw [if_pos h7]; rfl
  by_cases h15 : reg.toNat ≤ 15
  · rw [if_neg h7, if_pos h15]; rfl
  · rw [if_neg h7, if_neg h15]; rfl

/-- The encoder writes back the word of any HAW. -/
theorem encode_decodeHaw (w : Haw) : encode (decodeHaw w) = .haw w := by
  cases h : hawWr w
  · rw [decodeHaw_of_read h, encode_decodeRead, ← h, mkHaw_fields]
  · rw [decodeHaw_of_write h, encode_decodeWrite, ← h, mkHaw_fields]

/-- A HAW is the word of the instruction it decodes to. -/
theorem haw_of_decode {w v : Haw} {i : Instr} (h : decodeHaw w = i) (hi : encode i = .haw v) : w = v := by
  rw [← h, encode_decodeHaw] at hi
  exact TableWord.haw.inj hi

theorem decodeHaw_push {w : Haw} {aa : BitVec 2} {hi : BitVec 24} {b : Byte} (h : decodeHaw w = .push aa hi b) :
    hawWr w = true ∧ hawReg w = 0#5 ∧ opByte (hawData w) = b := by
  rw [haw_of_decode h rfl]; simp

theorem decodeHaw_wrStatus {w : Haw} {aa : BitVec 2} {hi : BitVec 12} {m : BitVec 4} {lo : BitVec 16}
    (h : decodeHaw w = .wrStatus aa hi m lo) : hawWr w = true ∧ hawReg w = 1#5 ∧ opClearMask (hawData w) = m := by
  rw [haw_of_decode h rfl]; simp

theorem decodeHaw_wrClkdiv {w : Haw} {aa : BitVec 2} {int : BitVec 16} {frac lo : BitVec 8}
    (h : decodeHaw w = .wrClkdiv aa int frac lo) :
    hawWr w = true ∧ hawReg w = 2#5 ∧ opInt (hawData w) = int ∧ opFrac (hawData w) = frac := by
  rw [haw_of_decode h rfl]; simp

theorem decodeHaw_cmdEnable {w : Haw} {aa : BitVec 2} {hi : BitVec 28} (h : decodeHaw w = .cmdEnable aa hi) :
    hawWr w = true ∧ hawReg w = 3#5 ∧ opCode (hawData w) = 1#4 := by
  rw [haw_of_decode h rfl]; simp

theorem decodeHaw_cmdRestart {w : Haw} {aa : BitVec 2} {hi : BitVec 28} (h : decodeHaw w = .cmdRestart aa hi) :
    hawWr w = true ∧ hawReg w = 3#5 ∧ opCode (hawData w) = 2#4 := by
  rw [haw_of_decode h rfl]; simp

/-- The other way: the fields give the instruction. -/
theorem decodeHaw_push_of {w : Haw} (h : hawWr w = true) (hr : hawReg w = 0#5) :
    decodeHaw w = .push (hawAddrLow w) (opAboveByte (hawData w)) (opByte (hawData w)) := by
  rw [decodeHaw_of_write h, hr]; rfl
theorem decodeHaw_wrStatus_of {w : Haw} (h : hawWr w = true) (hr : hawReg w = 1#5) :
    decodeHaw w = .wrStatus (hawAddrLow w) (opAboveMask (hawData w)) (opClearMask (hawData w)) (opBelowMask (hawData w)) := by
  rw [decodeHaw_of_write h, hr]; rfl
theorem decodeHaw_wrClkdiv_of {w : Haw} (h : hawWr w = true) (hr : hawReg w = 2#5) :
    decodeHaw w = .wrClkdiv (hawAddrLow w) (opInt (hawData w)) (opFrac (hawData w)) (opBelowFrac (hawData w)) := by
  rw [decodeHaw_of_write h, hr]; rfl
theorem decodeHaw_cmdEnable_of {w : Haw} (h : hawWr w = true) (hr : hawReg w = 3#5) (hc : opCode (hawData w) = 1#4) :
    decodeHaw w = .cmdEnable (hawAddrLow w) (opAboveCode (hawData w)) := by
  rw [decodeHaw_of_write h, hr]; simp [decodeWrite, decodeCommand, hc]
theorem decodeHaw_cmdRestart_of {w : Haw} (h : hawWr w = true) (hr : hawReg w = 3#5) (hc : opCode (hawData w) = 2#4) :
    decodeHaw w = .cmdRestart (hawAddrLow w) (opAboveCode (hawData w)) := by
  rw [decodeHaw_of_write h, hr]; simp [decodeWrite, decodeCommand, hc]

/-! ### The Engine does not look at the Host's side -/

/-- A tick step does not look at the read data. -/
theorem tickNext_respond (v : Word) (s : State) : tickNext (respond v s) = respond v (tickNext s) := by
  have hd : ∀ u : State, dispatch (respond v u) = respond v (dispatch u) := by
    intro u
    unfold dispatch respond
    cases u.rpend <;> cases u.txq <;> rfl
  rcases phase_cases s.phase with h | h | h | h | h | h | h | h
  · rw [tickNext_idle (s := s) h, tickNext_idle (s := respond v s) h, hd]
  · rw [tickNext_break (s := s) h, tickNext_break (s := respond v s) h]
    by_cases hc : s.cnt = 0#8 <;> simp [respond, hc]
  · rw [tickNext_mab (s := s) h, tickNext_mab (s := respond v s) h]
    by_cases hc : s.cnt = 0#8
    · rw [if_pos hc, if_pos (show (respond v s).cnt = 0#8 from hc), hd]
    · rw [if_neg hc, if_neg (show (respond v s).cnt ≠ 0#8 from hc)]; rfl
  · rw [tickNext_start (s := s) h, tickNext_start (s := respond v s) h]; rfl
  · rw [tickNext_data (s := s) h, tickNext_data (s := respond v s) h]
    by_cases hc : s.cnt = 7#8 <;> simp [respond, hc]
  · rw [tickNext_stop1 (s := s) h, tickNext_stop1 (s := respond v s) h]; rfl
  · rw [tickNext_stop2 (s := s) h, tickNext_stop2 (s := respond v s) h, hd]
  · rw [tickNext_reserved (s := s) h, tickNext_reserved (s := respond v s) h]; rfl

/-- The Engine's step does not look at the read data. -/
theorem engineNext_respond (v : Word) (s : State) : engineNext (respond v s) = respond v (engineNext s) := by
  unfold engineNext
  by_cases h : engineOn s = true
  · rw [if_pos h, if_pos (show engineOn (respond v s) = true from h)]
    by_cases ht : (divider s.acc (d256 s)).1 = true
    · rw [if_pos ht, if_pos (show (divider (respond v s).acc (d256 (respond v s))).1 = true from ht)]
      exact tickNext_respond v { s with acc := (divider s.acc (d256 s)).2 }
    · rw [if_neg ht, if_neg (show ¬ (divider (respond v s).acc (d256 (respond v s))).1 = true from ht)]; rfl
  · rw [if_neg h, if_neg (show ¬ engineOn (respond v s) = true from h)]

end Sys2Proof.Machine
end

