-- ==== Sys2Proof/Laws/Flags.lean ====
section
/-! SUPPORT. The words the Host reads, as numbers: STATUS, CLKDIV, PARAM (R34, R116, R119). -/

namespace Sys2Proof.Machine

/-- A bit of a vector, from its number. -/
theorem getLsbD_of_toNat {n : Nat} {v : BitVec n} {k : Nat} {b : Bool} (h : v.toNat / 2 ^ k % 2 = b.toNat) :
    v.getLsbD k = b := by
  simp only [BitVec.getLsbD, Nat.testBit_eq_decide_div_mod_eq, h]
  cases b <;> rfl

/-- A field of a vector, from its number. -/
theorem extract_of_toNat {n len : Nat} {v : BitVec n} {k : Nat} {x : BitVec len} (h : v.toNat / 2 ^ k % 2 ^ len = x.toNat) :
    v.extractLsb' k len = x := by
  apply BitVec.eq_of_toNat_eq
  rw [BitVec.extractLsb'_toNat, Nat.shiftRight_eq_div_pow, h]

/-- STATUS as a number (R34). -/
theorem statusWord_toNat (s : State) :
    (statusWord s).toNat =
      s.errCmd.toNat * 2 ^ 19 + s.errClk.toNat * 2 ^ 18 + s.errState.toNat * 2 ^ 17 + s.errTxover.toNat * 2 ^ 16
        + s.phase.toNat * 2 ^ 12 + qLevel s % 16 * 2 ^ 8 + s.rpend.toNat * 2 ^ 4 + (serBusy s).toNat * 2 ^ 3
        + (txqEmpty s).toNat * 2 ^ 2 + (txqFull s).toNat * 2 + s.running.toNat := by
  unfold statusWord
  refine (toNat_append_add _ _).trans ?_
  iterate 11 rw [toNat_append_add]
  simp only [BitVec.toNat_ofBool, BitVec.toNat_ofNat]
  omega

/-- CLKDIV as a number (R116). -/
theorem clkdivWord_toNat (s : State) :
    (clkdivWord s).toNat = s.clkdiv.int.toNat * 2 ^ 16 + s.clkdiv.frac.toNat * 2 ^ 8 := by
  unfold clkdivWord
  refine (toNat_append_add _ _).trans ?_
  rw [toNat_append_add]
  simp only [BitVec.toNat_ofNat]
  omega

/-- The depth of an instance is from 4 to 8 (R6). -/
theorem txqDepth_bounds (s : State) : 4 ≤ txqDepth s ∧ txqDepth s ≤ 8 := by
  unfold txqDepth
  cases s.cfg.txqDepth <;> decide

/-- PARAM as a number (R36, R119). -/
theorem paramWord_toNat (s : State) :
    (paramWord s).toNat = 2 * 2 ^ 20 + txqDepth s * 2 ^ 16 + 8 * 2 ^ 8 + 88 := by
  have h := (txqDepth_bounds s).2
  unfold paramWord
  refine (toNat_append_add _ _).trans ?_
  iterate 3 rw [toNat_append_add]
  simp only [BitVec.toNat_ofNat, Config.stopBits, Config.mabBits, Config.breakBits]
  omega

end Sys2Proof.Machine
end

