-- ==== Sys2Proof/Laws/PerInstr.lean ====
section
/-! SUPPORT. The round trip of one instruction: the decoder reads back the table word that the encoder writes. -/

namespace Sys2Proof.Laws.RoundTrip

/-- Decoding the table word of a well-formed instruction gives it back. -/
def Statement (i : Instr) : Prop := i.wf = true → decodeTable (encode i) = i

/-- Reading back a read row. -/
theorem read_back (reg : BitVec 5) (aa : BitVec 2) (data : Word) :
    decodeTable (.haw (mkHaw false reg aa data)) = decodeRead reg aa data := by
  simp [decodeTable, decodeHaw]

/-- Reading back a write row. -/
theorem write_back (reg : BitVec 5) (aa : BitVec 2) (data : Word) :
    decodeTable (.haw (mkHaw true reg aa data)) = decodeWrite reg aa data := by
  simp [decodeTable, decodeHaw]

/-- Reading back a command row. -/
theorem command_back (aa : BitVec 2) (data : Word) :
    decodeTable (.haw (mkHaw true 3#5 aa data)) = decodeCommand aa data := (write_back _ _ _).trans rfl

/-- A bit vector is not a literal that its value is not. -/
theorem ne_of_toNat_ne {n : Nat} {x y : BitVec n} (h : x.toNat ≠ y.toNat) : x ≠ y := fun e => h (e ▸ rfl)

/-- The reserved read rows, by the range of the word index. -/
theorem decodeRead_rsvd6_7 {reg : BitVec 5} (h : 6 ≤ reg.toNat ∧ reg.toNat ≤ 7) (aa : BitVec 2) (data : Word) :
    decodeRead reg aa data = .rdRsvd6_7 reg aa data := by
  unfold decodeRead
  iterate 6 rw [if_neg (ne_of_toNat_ne (by simp only [BitVec.toNat_ofNat]; omega))]
  rw [if_pos (by omega)]
theorem decodeRead_rsvd8_15 {reg : BitVec 5} (h : 8 ≤ reg.toNat ∧ reg.toNat ≤ 15) (aa : BitVec 2) (data : Word) :
    decodeRead reg aa data = .rdRsvd8_15 reg aa data := by
  unfold decodeRead
  iterate 6 rw [if_neg (ne_of_toNat_ne (by simp only [BitVec.toNat_ofNat]; omega))]
  rw [if_neg (by omega), if_pos (by omega)]
theorem decodeRead_rsvd16_31 {reg : BitVec 5} (h : 16 ≤ reg.toNat) (aa : BitVec 2) (data : Word) :
    decodeRead reg aa data = .rdRsvd16_31 reg aa data := by
  unfold decodeRead
  iterate 6 rw [if_neg (ne_of_toNat_ne (by simp only [BitVec.toNat_ofNat]; omega))]
  rw [if_neg (by omega), if_neg (by omega)]

/-- The reserved write rows, by the range of the word index. -/
theorem decodeWrite_rsvd6_7 {reg : BitVec 5} (h : 6 ≤ reg.toNat ∧ reg.toNat ≤ 7) (aa : BitVec 2) (data : Word) :
    decodeWrite reg aa data = .wrRsvd6_7 reg aa data := by
  unfold decodeWrite
  iterate 6 rw [if_neg (ne_of_toNat_ne (by simp only [BitVec.toNat_ofNat]; omega))]
  rw [if_pos (by omega)]
theorem decodeWrite_rsvd8_15 {reg : BitVec 5} (h : 8 ≤ reg.toNat ∧ reg.toNat ≤ 15) (aa : BitVec 2) (data : Word) :
    decodeWrite reg aa data = .wrRsvd8_15 reg aa data := by
  unfold decodeWrite
  iterate 6 rw [if_neg (ne_of_toNat_ne (by simp only [BitVec.toNat_ofNat]; omega))]
  rw [if_neg (by omega), if_pos (by omega)]
theorem decodeWrite_rsvd16_31 {reg : BitVec 5} (h : 16 ≤ reg.toNat) (aa : BitVec 2) (data : Word) :
    decodeWrite reg aa data = .wrRsvd16_31 reg aa data := by
  unfold decodeWrite
  iterate 6 rw [if_neg (ne_of_toNat_ne (by simp only [BitVec.toNat_ofNat]; omega))]
  rw [if_neg (by omega), if_neg (by omega)]

theorem push (aa : BitVec 2) (hi : BitVec 24) (b : Byte) : Statement (.push aa hi b) := fun _ =>
  (write_back _ _ _).trans (by simp [decodeWrite])

theorem rdTxdata (aa : BitVec 2) (data : Word) : Statement (.rdTxdata aa data) := fun _ => (read_back _ _ _).trans rfl

theorem rdStatus (aa : BitVec 2) (data : Word) : Statement (.rdStatus aa data) := fun _ => (read_back _ _ _).trans rfl

theorem wrStatus (aa : BitVec 2) (hi : BitVec 12) (m : BitVec 4) (lo : BitVec 16) : Statement (.wrStatus aa hi m lo) := fun _ =>
  (write_back _ _ _).trans (by simp [decodeWrite])

theorem rdClkdiv (aa : BitVec 2) (data : Word) : Statement (.rdClkdiv aa data) := fun _ => (read_back _ _ _).trans rfl

theorem wrClkdiv (aa : BitVec 2) (int : BitVec 16) (frac : BitVec 8) (lo : BitVec 8) : Statement (.wrClkdiv aa int frac lo) := fun _ =>
  (write_back _ _ _).trans (by simp [decodeWrite])

theorem rdCmd (aa : BitVec 2) (data : Word) : Statement (.rdCmd aa data) := fun _ => (read_back _ _ _).trans rfl

theorem cmdNop (aa : BitVec 2) (hi : BitVec 28) : Statement (.cmdNop aa hi) := fun _ =>
  (command_back _ _).trans (by simp [decodeCommand])

theorem cmdEnable (aa : BitVec 2) (hi : BitVec 28) : Statement (.cmdEnable aa hi) := fun _ =>
  (command_back _ _).trans (by simp [decodeCommand])

theorem cmdRestart (aa : BitVec 2) (hi : BitVec 28) : Statement (.cmdRestart aa hi) := fun _ =>
  (command_back _ _).trans (by simp [decodeCommand])

theorem cmdReserved3 (aa : BitVec 2) (hi : BitVec 28) : Statement (.cmdReserved3 aa hi) := fun _ =>
  (command_back _ _).trans (by simp [decodeCommand])

theorem cmdReserved4_7 (aa : BitVec 2) (hi : BitVec 28) (code : BitVec 4) : Statement (.cmdReserved4_7 aa hi code) := fun h => by
  have h' : 4 ≤ code.toNat ∧ code.toNat ≤ 7 := by simpa [Instr.wf] using h
  refine (command_back aa (hi ++ code)).trans ?_
  unfold decodeCommand
  rw [opCode_append, opAboveCode_append]
  iterate 4 rw [if_neg (ne_of_toNat_ne (by simp only [BitVec.toNat_ofNat]; omega))]
  rw [if_pos (by omega)]

theorem cmdReserved8_15 (aa : BitVec 2) (hi : BitVec 28) (code : BitVec 4) : Statement (.cmdReserved8_15 aa hi code) := fun h => by
  have h' : 8 ≤ code.toNat := by simpa [Instr.wf] using h
  refine (command_back aa (hi ++ code)).trans ?_
  unfold decodeCommand
  rw [opCode_append, opAboveCode_append]
  iterate 4 rw [if_neg (ne_of_toNat_ne (by simp only [BitVec.toNat_ofNat]; omega))]
  rw [if_neg (by omega)]

theorem rdParam (aa : BitVec 2) (data : Word) : Statement (.rdParam aa data) := fun _ => (read_back _ _ _).trans rfl

theorem wrParam (aa : BitVec 2) (data : Word) : Statement (.wrParam aa data) := fun _ =>
  (write_back _ _ _).trans (by simp [decodeWrite])

theorem rdRsvd5 (aa : BitVec 2) (data : Word) : Statement (.rdRsvd5 aa data) := fun _ => (read_back _ _ _).trans rfl

theorem rdRsvd6_7 (reg : BitVec 5) (aa : BitVec 2) (data : Word) : Statement (.rdRsvd6_7 reg aa data) := fun h =>
  (read_back reg aa data).trans (decodeRead_rsvd6_7 (by simpa [Instr.wf] using h) aa data)

theorem rdRsvd8_15 (reg : BitVec 5) (aa : BitVec 2) (data : Word) : Statement (.rdRsvd8_15 reg aa data) := fun h =>
  (read_back reg aa data).trans (decodeRead_rsvd8_15 (by simpa [Instr.wf] using h) aa data)

theorem rdRsvd16_31 (reg : BitVec 5) (aa : BitVec 2) (data : Word) : Statement (.rdRsvd16_31 reg aa data) := fun h =>
  (read_back reg aa data).trans (decodeRead_rsvd16_31 (by simpa [Instr.wf] using h) aa data)

theorem wrRsvd5 (aa : BitVec 2) (data : Word) : Statement (.wrRsvd5 aa data) := fun _ =>
  (write_back _ _ _).trans (by simp [decodeWrite])

theorem wrRsvd6_7 (reg : BitVec 5) (aa : BitVec 2) (data : Word) : Statement (.wrRsvd6_7 reg aa data) := fun h =>
  (write_back reg aa data).trans (decodeWrite_rsvd6_7 (by simpa [Instr.wf] using h) aa data)

theorem wrRsvd8_15 (reg : BitVec 5) (aa : BitVec 2) (data : Word) : Statement (.wrRsvd8_15 reg aa data) := fun h =>
  (write_back reg aa data).trans (decodeWrite_rsvd8_15 (by simpa [Instr.wf] using h) aa data)

theorem wrRsvd16_31 (reg : BitVec 5) (aa : BitVec 2) (data : Word) : Statement (.wrRsvd16_31 reg aa data) := fun h =>
  (write_back reg aa data).trans (decodeWrite_rsvd16_31 (by simpa [Instr.wf] using h) aa data)

theorem tpIdle : Statement .tpIdle := fun _ => rfl

theorem tpBreak : Statement .tpBreak := fun _ => rfl

theorem tpMab : Statement .tpMab := fun _ => rfl

theorem tpStart : Statement .tpStart := fun _ => rfl

theorem tpData : Statement .tpData := fun _ => rfl

theorem tpStop1 : Statement .tpStop1 := fun _ => rfl

theorem tpStop2 : Statement .tpStop2 := fun _ => rfl

theorem tpReserved7 : Statement .tpReserved7 := fun _ => rfl

theorem tpReserved8_15 (code : BitVec 4) : Statement (.tpReserved8_15 code) := fun h => by
  have h' : 8 ≤ code.toNat := by simpa [Instr.wf] using h
  show decodePhase code = _
  unfold decodePhase
  iterate 8 rw [if_neg (ne_of_toNat_ne (by simp only [BitVec.toNat_ofNat]; omega))]

end Sys2Proof.Laws.RoundTrip
end

