-- ==== Sys2Proof/Laws/Trace.lean ====
section
/-! SUPPORT. Runs and traces: they unfold one cycle at a time, they can be cut, and a run is the host's run. -/

namespace Sys2Proof.Machine

@[simp] theorem run_zero (s : State) : run 0 s = .next s := rfl

theorem run_succ {s t : State} (h : step s = .next t) (n : Nat) : run (n + 1) s = run n t := by
  simp [run, h]

/-- A run of `m + n` cycles is a run of `n` after a run of `m`. -/
theorem run_add (m n : Nat) (s : State) : run (m + n) s = andThen (run m s) (run n) := by
  induction m generalizing s with
  | zero => simp
  | succ m ih =>
    rw [show m + 1 + n = (m + n) + 1 by omega]
    cases h : step s with
    | next t => rw [run_succ h, run_succ h, ih]
    | fault e => simp [run, h, andThen]
    | refused e => simp [run, h, andThen]

/-- A run of the model is a run of the host's interface. -/
theorem run_eq_core_run (n : Nat) (s : State) : run n s = Host.Core.run Sys2Proof.core n s := by
  induction n generalizing s with
  | zero => rfl
  | succ n ih =>
    cases h : step s with
    | next t => rw [run_succ h, ih]; simp only [Host.Core.run]; rw [show Sys2Proof.core.step s = step s from rfl, h]
    | fault e => cases e
    | refused e => simp only [run, h, andThen, Host.Core.run]; rw [show Sys2Proof.core.step s = step s from rfl, h]; rfl

@[simp] theorem traceOf_zero {α : Type} (f : State → α) (s : State) : traceOf f 0 s = [] := rfl

theorem traceOf_succ {α : Type} (f : State → α) {s t : State} (h : step s = .next t) (n : Nat) :
    traceOf f (n + 1) s = f s :: traceOf f n t := by
  simp [traceOf, h]

/-- A trace of `m + n` cycles is a trace of `m`, then one of `n` from the state reached. -/
theorem traceOf_add {α : Type} (f : State → α) {m : Nat} {s t : State} (h : run m s = .next t) (n : Nat) :
    traceOf f (m + n) s = traceOf f m s ++ traceOf f n t := by
  induction m generalizing s with
  | zero => cases h; simp
  | succ m ih =>
    obtain ⟨u, hu, ht⟩ := andThen_eq_next h
    rw [show m + 1 + n = (m + n) + 1 by omega, traceOf_succ f hu, traceOf_succ f hu, ih ht, List.cons_append]

@[simp] theorem lineTrace_zero (s : State) : lineTrace 0 s = [] := rfl

theorem lineTrace_succ (n : Nat) (s : State) : lineTrace (n + 1) s = lineOf s :: lineTrace n (tickNext s) := by
  simp [lineTrace, tickStep_eq]

@[simp] theorem tickRun_zero (s : State) : tickRun 0 s = .next s := rfl

theorem tickRun_succ (n : Nat) (s : State) : tickRun (n + 1) s = tickRun n (tickNext s) := by
  simp [tickRun, tickStep_eq]

end Sys2Proof.Machine
end

