-- ==== Sys2Proof/Tests/Slice0.lean ====
section
/-! SUPPORT. The model's own tests: ill-formed terms, words written out from the encodings, one step per test from the spec's vectors
(95_test_vectors.md, cited as V<n>), and a witness for the hypotheses of every statement. -/

open Sys2Proof Sys2Proof.Machine

namespace Sys2Proof.Tests

/-! ### Helpers -/

/-- "Run" of 95_test_vectors.md section 2.6: Running at 125 MHz, IDLE, no errors; with INT = 500 and ACC = 0 its next cycle has no tick. -/
def runState (q : List Byte) : State :=
  { State.reset with running := true, clkdiv := { int := 500#16, frac := 0#8 }, txq := q }

/-- A Running state with a divisor of 1.0, so that every cycle has a tick (V1). -/
def tickState (p : PhaseCode) (cnt : BitVec 8) (q : List Byte) (r : Bool) : State :=
  { State.reset with
    running := true, clkdiv := { int := 1#16, frac := 0#8 }, phase := p, cnt := cnt, shift := 0xA5#8, txq := q, rpend := r }

/-- The Host's next lines. -/
def withLines (s : State) (l : List HostLine) : State := { s with host := l }

/-- One access in the next cycle. -/
def withHaw (s : State) (w : Haw) : State := withLines s [.cycle { rst := false, haw := some w }]

/-- Reset in the next cycle, with an access beside it. -/
def withReset (s : State) (w : Haw) : State := withLines s [.cycle { rst := true, haw := some w }]

/-- The state after one step. -/
def after (s : State) : State :=
  match step s with
  | .next t => t
  | _ => s

/-- Phase, CNT, SHIFT, queue and RPEND, the fields a tick step changes. -/
def program (s : State) : PhaseCode × BitVec 8 × Byte × List Byte × Bool := (s.phase, s.cnt, s.shift, s.txq, s.rpend)

/-- The four sticky flags, ERR_TXOVER first. -/
def flags (s : State) : Bool × Bool × Bool × Bool := (s.errTxover, s.errState, s.errClk, s.errCmd)

/-! ### WellFormed refuses ill-formed terms, at both ends of each range -/

theorem test_wf_cmdReserved4_7 :
    (Instr.cmdReserved4_7 0#2 0#28 3#4).wf = false ∧ (Instr.cmdReserved4_7 0#2 0#28 8#4).wf = false := by decide
theorem test_wf_cmdReserved8_15 : (Instr.cmdReserved8_15 0#2 0#28 7#4).wf = false := by decide
theorem test_wf_rdRsvd6_7 : (Instr.rdRsvd6_7 5#5 0#2 0#32).wf = false ∧ (Instr.rdRsvd6_7 8#5 0#2 0#32).wf = false := by decide
theorem test_wf_rdRsvd8_15 : (Instr.rdRsvd8_15 7#5 0#2 0#32).wf = false ∧ (Instr.rdRsvd8_15 16#5 0#2 0#32).wf = false := by decide
theorem test_wf_rdRsvd16_31 : (Instr.rdRsvd16_31 15#5 0#2 0#32).wf = false := by decide
theorem test_wf_wrRsvd6_7 : (Instr.wrRsvd6_7 5#5 0#2 0#32).wf = false ∧ (Instr.wrRsvd6_7 8#5 0#2 0#32).wf = false := by decide
theorem test_wf_wrRsvd8_15 : (Instr.wrRsvd8_15 7#5 0#2 0#32).wf = false ∧ (Instr.wrRsvd8_15 16#5 0#2 0#32).wf = false := by decide
theorem test_wf_wrRsvd16_31 : (Instr.wrRsvd16_31 15#5 0#2 0#32).wf = false := by decide
theorem test_wf_tpReserved8_15 : (Instr.tpReserved8_15 7#4).wf = false := by decide

/-! ### Every row's word, written out from R73 and R76 (`WR`, `REG`, `aa`, then DATA) -/

theorem test_decode_push : decodeHaw 0b1000000100010010001101000101011001000001#40 = .push 1#2 0x123456#24 0x41#8 := by decide
theorem test_decode_rdTxdata : decodeHaw 0b0000001010000000000000000000000000000001#40 = .rdTxdata 2#2 0x80000001#32 := by decide
theorem test_decode_rdStatus : decodeHaw 0b0000011100000000000000000000000000000000#40 = .rdStatus 3#2 0#32 := by decide
theorem test_decode_wrStatus : decodeHaw 0b1000010010101011110001010001001000110100#40 = .wrStatus 0#2 0xABC#12 5#4 0x1234#16 := by decide
theorem test_decode_rdClkdiv : decodeHaw 0b0000100100000000000000001111111111111111#40 = .rdClkdiv 1#2 0xFFFF#32 := by decide
theorem test_decode_wrClkdiv : decodeHaw 0b1000101000000000000001000110011011111110#40 = .wrClkdiv 2#2 4#16 0x66#8 0xFE#8 := by decide
theorem test_decode_rdCmd : decodeHaw 0b0000110000000000000000000000000000000001#40 = .rdCmd 0#2 1#32 := by decide
theorem test_decode_cmdNop : decodeHaw 0b1000110011111111111111111111111111110000#40 = .cmdNop 0#2 0xFFFFFFF#28 := by decide
theorem test_decode_cmdEnable : decodeHaw 0b1000111100000000000000000000000000010001#40 = .cmdEnable 3#2 1#28 := by decide
theorem test_decode_cmdRestart : decodeHaw 0b1000110010000000000000000000000000000010#40 = .cmdRestart 0#2 0x8000000#28 := by decide
theorem test_decode_cmdReserved3 : decodeHaw 0b1000110100000000000000000000000000000011#40 = .cmdReserved3 1#2 0#28 := by decide
theorem test_decode_cmdReserved4_7 : decodeHaw 0b1000110000000000000000000000000000010100#40 = .cmdReserved4_7 0#2 1#28 4#4 := by decide
theorem test_decode_cmdReserved8_15 : decodeHaw 0b1000110000000000000000000000000000101111#40 = .cmdReserved8_15 0#2 2#28 15#4 := by decide
theorem test_decode_rdParam : decodeHaw 0b0001000000000000000000000000000000000000#40 = .rdParam 0#2 0#32 := by decide
theorem test_decode_wrParam : decodeHaw 0b1001001011111111111111111111111111111111#40 = .wrParam 2#2 0xFFFFFFFF#32 := by decide
theorem test_decode_rdRsvd5 : decodeHaw 0b0001010000000000000000000000000000000111#40 = .rdRsvd5 0#2 7#32 := by decide
theorem test_decode_rdRsvd6_7 : decodeHaw 0b0001101100000000000000000000000000000000#40 = .rdRsvd6_7 6#5 3#2 0#32 := by decide
theorem test_decode_rdRsvd8_15 : decodeHaw 0b0011110000000000000000000000000000000000#40 = .rdRsvd8_15 15#5 0#2 0#32 := by decide
theorem test_decode_rdRsvd16_31 : decodeHaw 0b0100000000000000000000000000000000000000#40 = .rdRsvd16_31 16#5 0#2 0#32 := by decide
theorem test_decode_wrRsvd5 : decodeHaw 0b1001010000000000000000000000000000000001#40 = .wrRsvd5 0#2 1#32 := by decide
theorem test_decode_wrRsvd6_7 : decodeHaw 0b1001110000000000000000000000000000000001#40 = .wrRsvd6_7 7#5 0#2 1#32 := by decide
theorem test_decode_wrRsvd8_15 : decodeHaw 0b1010000000000000000000000000000000000001#40 = .wrRsvd8_15 8#5 0#2 1#32 := by decide
theorem test_decode_wrRsvd16_31 : decodeHaw 0b1111111100000000000000000000000000000001#40 = .wrRsvd16_31 31#5 3#2 1#32 := by decide
theorem test_decode_tpIdle : decode [0b00000000#8] = .ok .tpIdle := by rfl
theorem test_decode_tpBreak : decode [0b00000001#8] = .ok .tpBreak := by rfl
theorem test_decode_tpMab : decode [0b00000010#8] = .ok .tpMab := by rfl
theorem test_decode_tpStart : decode [0b00000011#8] = .ok .tpStart := by rfl
theorem test_decode_tpData : decode [0b00000100#8] = .ok .tpData := by rfl
theorem test_decode_tpStop1 : decode [0b00000101#8] = .ok .tpStop1 := by rfl
theorem test_decode_tpStop2 : decode [0b00000110#8] = .ok .tpStop2 := by rfl
theorem test_decode_tpReserved7 : decode [0b00000111#8] = .ok .tpReserved7 := by rfl
theorem test_decode_tpReserved8_15 :
    decode [0b00001000#8] = .ok (.tpReserved8_15 8#4) ∧ decode [0b00001111#8] = .ok (.tpReserved8_15 15#4) := ⟨rfl, rfl⟩

/-- Byte strings that are no instruction are refused by name. -/
theorem test_decode_refuses :
    decode [] = .error (.wrongLength 0) ∧ decode [0x41#8, 0#8] = .error (.wrongLength 2) ∧
    decode [0x17#8] = .error (.phaseTooWide 0x17#8) := ⟨rfl, rfl, rfl⟩

/-- The HAWs of V62 and V87, as numbers of the opcode table. -/
theorem test_decodeTableWord_haw :
    decodeTableWord 40 0x8012345641 = some (.push 0#2 0x123456#24 0x41#8) ∧
    decodeTableWord 40 0x8C00000012 = some (.cmdRestart 0#2 1#28) ∧ decodeTableWord 40 (2 ^ 40) = none := by decide

/-- Phase codes, as numbers of the opcode table. -/
theorem test_decodeTableWord_phase :
    decodeTableWord 8 5 = some .tpStop1 ∧ decodeTableWord 8 0x0F = some (.tpReserved8_15 15#4) ∧
    decodeTableWord 8 0x10 = none := by decide

/-- A word placed by withFetchWord is what the very next step from reset runs. -/
theorem test_withFetchWord :
    (after (State.reset.withFetchWord 40 0x1000000000)).rdata = 0x00240858#32 ∧
    (after (State.reset.withFetchWord 8 5)).phase = phStop2 := by decide

/-! ### One step per instruction -/

/-- V62, V65. -/
theorem test_push_enqueues :
    (after (withHaw (runState [0x10#8, 0x20#8]) 0x8012345641#40)).txq = [0x10#8, 0x20#8, 0x41#8] ∧
    (after (withHaw (runState []) 0x83000000AB#40)).txq = [0xAB#8] := by decide
/-- V63, V64. -/
theorem test_push_raises :
    (after (withHaw (runState [1#8, 2#8, 3#8, 4#8]) 0x8000000005#40)).ledger = [{ cycle := 0, err := .errTxover }] ∧
    flags (after (withHaw State.reset 0x8000000011#40)) = (false, true, false, false) := by decide
/-- V66. -/
theorem test_rdTxdata :
    (after (withHaw (runState [1#8, 2#8]) 0x0000000000#40)).rdata = 0#32 ∧
    (after (withHaw (runState [1#8, 2#8]) 0x0000000000#40)).txq = [1#8, 2#8] := by decide
/-- V67, V101. -/
theorem test_rdStatus :
    (after (withHaw State.reset 0x0400000000#40)).rdata = 0x00000004#32 ∧
    (after (withHaw { runState [1#8, 2#8, 3#8, 4#8] with phase := phBreak } 0x0400000000#40)).rdata = 0x0000140B#32 := by decide
/-- V106, V103. -/
theorem test_rdStatus_fields :
    (after (withHaw { runState [] with errTxover := true, errState := true, errClk := true, errCmd := true }
      0x0400000000#40)).rdata = 0x000F0005#32 ∧
    (after (withHaw { runState [] with phase := phData, rpend := true } 0x0400000000#40)).rdata = 0x0000401D#32 := by decide
/-- V69, V71. -/
theorem test_wrStatus :
    flags (after (withHaw { State.reset with errState := true, errTxover := true } 0x8400010000#40)) = (false, true, false, false) ∧
    flags (after (withHaw { runState [] with errCmd := true } 0x84FFF0FFFF#40)) = (false, false, false, true) := by decide
/-- V72. -/
theorem test_rdClkdiv :
    (after (withHaw { State.reset with clkdiv := { int := 0x01F4#16, frac := 0#8 } } 0x0800000000#40)).rdata = 0x01F40000#32 := by
  decide
/-- V73, V74. -/
theorem test_wrClkdiv_sets :
    (after (withHaw State.reset 0x8801F400FF#40)).clkdiv = { int := 500#16, frac := 0#8 } ∧
    (after (withHaw State.reset 0x8800046600#40)).clkdiv = { int := 4#16, frac := 0x66#8 } := by decide
/-- V76. -/
theorem test_wrClkdiv_raises :
    (after (withHaw (runState []) 0x8800046600#40)).clkdiv = { int := 500#16, frac := 0#8 } ∧
    flags (after (withHaw (runState []) 0x8800046600#40)) = (false, true, false, false) := by decide
/-- V77. -/
theorem test_rdCmd : (after (withHaw { runState [] with rdata := 1#32 } 0x0C00000000#40)).rdata = 0#32 := by decide
/-- V79. -/
theorem test_cmdNop :
    flags (after (withHaw (runState []) 0x8CFFFFFFF0#40)) = (false, false, false, false) ∧
    (after (withHaw (runState []) 0x8CFFFFFFF0#40)).rpend = false := by decide
/-- V80. -/
theorem test_cmdEnable_runs :
    (after (withHaw { State.reset with clkdiv := { int := 500#16, frac := 0#8 }, acc := 5#25 } 0x8C00000001#40)).running = true ∧
    (after (withHaw { State.reset with clkdiv := { int := 500#16, frac := 0#8 }, acc := 5#25 } 0x8C00000001#40)).acc = 0#25 := by
  decide
/-- V82, V83: the divider runs in the cycle of V83, so ACC is 256 after it. -/
theorem test_cmdEnable_raises :
    flags (after (withHaw { State.reset with clkdiv := { int := 0#16, frac := 0xFF#8 } } 0x8C00000001#40)) =
      (false, false, true, false) ∧
    flags (after (withHaw (runState []) 0x8C00000001#40)) = (false, true, false, false) ∧
    (after (withHaw (runState []) 0x8C00000001#40)).acc = 256#25 := by decide
/-- V84, V87. -/
theorem test_cmdRestart_latches :
    statusWord (after (withHaw (runState []) 0x8C00000002#40)) = 0x0000001D#32 ∧
    (after (withHaw (runState []) 0x8C00000012#40)).rpend = true := by decide
/-- V86. -/
theorem test_cmdRestart_raises :
    flags (after (withHaw State.reset 0x8C00000002#40)) = (false, true, false, false) ∧
    (after (withHaw State.reset 0x8C00000002#40)).rpend = false := by decide
/-- V88. -/
theorem test_cmdReserved3 : (after (withHaw (runState []) 0x8C00000003#40)).ledger = [{ cycle := 0, err := .errCmd }] := by decide
/-- V89. -/
theorem test_cmdReserved4_7 : flags (after (withHaw State.reset 0x8C00000007#40)) = (false, false, false, true) := by decide
/-- V90. -/
theorem test_cmdReserved8_15 : flags (after (withHaw (runState []) 0x8C0000000F#40)) = (false, false, false, true) := by decide
/-- V91. -/
theorem test_rdParam :
    (after (withHaw State.reset 0x1000000000#40)).rdata = 0x00240858#32 ∧
    (after (withHaw (State.resetWith { txqDepth := .d8, fSys := 0#32 }) 0x1000000000#40)).rdata = 0x00280858#32 := by decide
/-- V92. -/
theorem test_wrParam :
    flags (after (withHaw (runState []) 0x90FFFFFFFF#40)) = (false, false, false, false) ∧
    (after (withHaw (runState []) 0x90FFFFFFFF#40)).clkdiv = { int := 500#16, frac := 0#8 } := by decide
/-- V93. -/
theorem test_rdRsvd :
    (after (withHaw (runState []) 0x1400000000#40)).rdata = 0#32 ∧ (after (withHaw (runState []) 0x1800000000#40)).rdata = 0#32 ∧
    (after (withHaw (runState []) 0x2000000000#40)).rdata = 0#32 ∧ (after (withHaw (runState []) 0x7F00000000#40)).rdata = 0#32 := by
  decide
/-- V94. -/
theorem test_wrRsvd :
    (after (withHaw State.reset 0x9400000001#40)).ledger = [] ∧ (after (withHaw State.reset 0x9C00000001#40)).ledger = [] ∧
    (after (withHaw State.reset 0xA000000001#40)).ledger = [] ∧ (after (withHaw State.reset 0xFC00000001#40)).ledger = [] := by
  decide
/-- V22, V23. -/
theorem test_tpIdle :
    program (after (tickState phIdle 9#8 [] false)) = (phIdle, 9#8, 0xA5#8, [], false) ∧
    program (after (tickState phIdle 9#8 [0x41#8] false)) = (phStart, 9#8, 0x41#8, [], false) := by decide
/-- V24. -/
theorem test_tpIdle_restart :
    program (after (tickState phIdle 9#8 [0x41#8] true)) = (phBreak, 87#8, 0xA5#8, [0x41#8], false) := by decide
/-- V26, V29. -/
theorem test_tpBreak :
    program (after (tickState phBreak 87#8 [] false)) = (phBreak, 86#8, 0xA5#8, [], false) ∧
    program (after (tickState phBreak 0#8 [1#8, 2#8, 3#8, 4#8] true)) =
      (phMab, 7#8, 0xA5#8, [1#8, 2#8, 3#8, 4#8], true) := by decide
/-- V30, V31. -/
theorem test_tpMab :
    program (after (tickState phMab 7#8 [] false)) = (phMab, 6#8, 0xA5#8, [], false) ∧
    program (after (tickState phMab 0#8 [0x00#8, 0x01#8] false)) = (phStart, 0#8, 0x00#8, [0x01#8], false) := by decide
/-- V32, V33. -/
theorem test_tpMab_ends :
    program (after (tickState phMab 0#8 [] false)) = (phIdle, 0#8, 0xA5#8, [], false) ∧
    program (after (tickState phMab 0#8 [5#8] true)) = (phBreak, 87#8, 0xA5#8, [5#8], false) := by decide
/-- V34. -/
theorem test_tpStart : program (after (tickState phStart 0x57#8 [] false)) = (phData, 0#8, 0xA5#8, [], false) := by decide
/-- V36, V37. -/
theorem test_tpData :
    program (after (tickState phData 6#8 [] false)) = (phData, 7#8, 0xA5#8, [], false) ∧
    program (after (tickState phData 7#8 [] false)) = (phStop1, 7#8, 0xA5#8, [], false) := by decide
/-- V38. -/
theorem test_tpStop1 : program (after (tickState phStop1 7#8 [9#8] true)) = (phStop2, 7#8, 0xA5#8, [9#8], true) := by decide
/-- V39, V41. -/
theorem test_tpStop2 :
    program (after (tickState phStop2 7#8 [0x22#8] false)) = (phStart, 7#8, 0x22#8, [], false) ∧
    program (after (tickState phStop2 7#8 [1#8, 2#8, 3#8] true)) = (phBreak, 87#8, 0xA5#8, [1#8, 2#8, 3#8], false) := by decide
/-- V42. -/
theorem test_tpReserved7 :
    program (after (tickState 7#4 3#8 [1#8] true)) = (7#4, 3#8, 0xA5#8, [1#8], true) ∧
    (after (tickState 7#4 3#8 [1#8] true)).ledger = [{ cycle := 0, err := .badPhase }] := by decide
/-- V43: one ledger entry, and no further Engine step. -/
theorem test_tpReserved8_15 :
    (after (after (tickState 15#4 3#8 [] false))).ledger = [{ cycle := 0, err := .badPhase }] := by decide

/-! ### The line and the cycle -/

/-- V51, V52. -/
theorem test_lineLevel_data :
    (List.range 8).map (fun n => lineLevel phData (BitVec.ofNat 8 n) 0xA5#8) =
      [some true, some false, some true, some false, some false, some true, some false, some true] ∧
    lineLevel phData 6#8 0x80#8 = some false ∧ lineLevel phData 7#8 0x80#8 = some true := by decide
/-- V46, V48, V54. -/
theorem test_dmxTx :
    dmxTx { State.reset with phase := phBreak } = some true ∧ dmxTx (tickState phBreak 3#8 [] false) = some false ∧
    dmxTx (tickState 7#4 3#8 [] false) = none := by decide
/-- V4: running cycle 5 of a divisor of 4.3984375 has a tick and leaves ACC = 154. -/
theorem test_divider_v4 : divider 768#25 1126#24 = (false, 1024#25) ∧ divider 1024#25 1126#24 = (true, 154#25) := by decide
/-- V15, V17, V19, V21. -/
theorem test_divisorFor :
    divisorFor 1100000#32 = some 0x00046600#32 ∧ divisorFor 250001#32 = some 0x00010000#32 ∧ divisorFor 249999#32 = none ∧
    divisorFor 4294967295#32 = some 0x431BDE00#32 := by decide
/-- V96, V114. -/
theorem test_reset_cycle :
    after (withReset { tickState phBreak 9#8 [1#8, 2#8] true with errTxover := true, ledger := [{ cycle := 0, err := .errTxover }] }
      0x8000000041#40) = { State.reset with cycle := 1, ledger := [{ cycle := 0, err := .errTxover }] } := by decide
/-- V108: the PUSH of a byte in the cycle of the pop from a full queue. -/
theorem test_push_same_cycle :
    (after (withHaw (tickState phMab 0#8 [1#8, 2#8, 3#8, 4#8] false) 0x8000000005#40)).txq = [2#8, 3#8, 4#8, 5#8] := by decide
/-- R80: `waitnf` ends at the read that finds the queue not full, and not before. -/
theorem test_poll :
    (after (withLines (runState [1#8, 2#8, 3#8, 4#8]) [.poll .notFull])).host = [.poll .notFull] ∧
    (after (withLines (runState [1#8, 2#8, 3#8]) [.poll .notFull])).host = [] := by decide
/-- V59: 0xA5 is `0 10100101 11`. -/
theorem test_character :
    character 0xA5#8 = [false, true, false, true, false, false, true, false, true, true, true] := by decide
/-- The lines of a short frame: the HAWs of E2 and P2. -/
theorem test_universeProgram :
    assemble (universeProgram [0x01#8]) =
      [.cycle { rst := false, haw := some 0x8C00000002#40 }, .poll .notFull, .cycle { rst := false, haw := some 0x8000000000#40 },
       .poll .notFull, .cycle { rst := false, haw := some 0x8000000001#40 }, .poll .done] := by decide

/-! ### Witnesses: for each statement with hypotheses, states and operands that meet them together, one per clause, at boundary values -/

/-- Stopped, with the smallest legal divisor. -/
def boundState : State := { State.reset with clkdiv := { int := 1#16, frac := 0#8 } }

/-- A Running state with a given divisor, IDLE and empty. -/
def dividerState (int : BitVec 16) (frac : BitVec 8) : State :=
  { State.reset with running := true, clkdiv := { int := int, frac := frac } }

theorem inv_bound : boundState.Inv :=
  ⟨by decide, by decide, by decide, by decide, by decide, by decide, by decide, by decide, by decide⟩
theorem inv_full : (runState [1#8, 2#8, 3#8, 4#8]).Inv :=
  ⟨by decide, by decide, by decide, by decide, by decide, by decide, by decide, by decide, by decide⟩
theorem inv_data : (tickState phData 7#8 [] false).Inv :=
  ⟨by decide, by decide, by decide, by decide, by decide, by decide, by decide, by decide, by decide⟩
theorem inv_break : (tickState phBreak 87#8 [] false).Inv :=
  ⟨by decide, by decide, by decide, by decide, by decide, by decide, by decide, by decide, by decide⟩
theorem inv_start : (tickState phStart 0#8 [] false).Inv :=
  ⟨by decide, by decide, by decide, by decide, by decide, by decide, by decide, by decide, by decide⟩
theorem inv_smallest : (dividerState 1#16 0#8).Inv :=
  ⟨by decide, by decide, by decide, by decide, by decide, by decide, by decide, by decide, by decide⟩
theorem inv_largest : (dividerState 0xFFFF#16 0xFF#8).Inv :=
  ⟨by decide, by decide, by decide, by decide, by decide, by decide, by decide, by decide, by decide⟩

theorem witness_DecodeOfEncode :
    (Instr.push 3#2 0xFFFFFF#24 0xFF#8).wf = true ∧
    (Instr.cmdReserved4_7 0#2 0#28 4#4).wf = true ∧ (Instr.cmdReserved4_7 3#2 1#28 7#4).wf = true ∧
    (Instr.cmdReserved8_15 0#2 0#28 8#4).wf = true ∧ (Instr.rdRsvd6_7 7#5 0#2 0#32).wf = true ∧
    (Instr.wrRsvd8_15 15#5 0#2 0#32).wf = true ∧ (Instr.rdRsvd16_31 16#5 0#2 0#32).wf = true ∧
    (Instr.tpReserved8_15 8#4).wf = true := by decide

theorem witness_EncodeOfDecode :
    decode [0x41#8, 0x56#8, 0x34#8, 0x12#8, 0x80#8] = .ok (.push 0#2 0x123456#24 0x41#8) ∧ decode [0x06#8] = .ok .tpStop2 :=
  ⟨rfl, rfl⟩

/-- Of ParamReadAnswersTheParameters and ResetValues: an instance of depth 4. -/
theorem witness_ParamReadAnswersTheParameters : State.reset.cfg.txqDepth = .d4 ∧ Config.reference.txqDepth = .d4 := by decide

theorem witness_PushEnqueuesOrRaises :
    State.reset.running = false ∧
    ((runState [1#8, 2#8, 3#8, 4#8]).running = true ∧
      (runState [1#8, 2#8, 3#8, 4#8]).txq.length = (runState [1#8, 2#8, 3#8, 4#8]).cfg.txqDepth.toNat) ∧
    ((runState [1#8, 2#8, 3#8]).running = true ∧
      (runState [1#8, 2#8, 3#8]).txq.length ≠ (runState [1#8, 2#8, 3#8]).cfg.txqDepth.toNat) := by decide

theorem witness_ClkdivWriteSetsOrRaises : State.reset.running = false ∧ (runState []).running = true := by decide

theorem witness_EnableRunsOrRaises :
    (runState []).running = true ∧ (State.reset.running = false ∧ State.reset.clkdiv.int = 0#16) ∧
    (boundState.Inv ∧ boundState.running = false ∧ boundState.clkdiv.int ≠ 0#16) := by
  exact ⟨by decide, by decide, inv_bound, by decide, by decide⟩

theorem witness_RestartLatchesOrRaises : (runState []).running = true ∧ State.reset.running = false := by decide

theorem witness_ReservedCommandsRaise :
    Instr.cmdReserved4_7 0#2 0#28 7#4 = .cmdReserved3 0#2 0#28 ∨
    Instr.cmdReserved4_7 0#2 0#28 7#4 = .cmdReserved4_7 0#2 0#28 7#4 ∨
    Instr.cmdReserved4_7 0#2 0#28 7#4 = .cmdReserved8_15 0#2 0#28 7#4 := by decide

theorem witness_DispatchPointsDispatch :
    ((Instr.tpMab = .tpIdle ∨ Instr.tpMab = .tpStop2 ∨ (Instr.tpMab = .tpMab ∧ (tickState phMab 0#8 [5#8] true).cnt = 0#8)) ∧
      (tickState phMab 0#8 [5#8] true).rpend = true) ∧
    ((tickState phIdle 0#8 [5#8] false).rpend = false ∧ (tickState phIdle 0#8 [5#8] false).txq = 5#8 :: []) ∧
    ((tickState phStop2 7#8 [] false).rpend = false ∧ (tickState phStop2 7#8 [] false).txq = []) := by decide

theorem witness_BreakAndMabCountDown :
    (tickState phBreak 87#8 [] false).cnt ≠ 0#8 ∧ (tickState phBreak 0#8 [] false).cnt = 0#8 ∧
    (tickState phMab 1#8 [] false).cnt ≠ 0#8 ∧ (tickState phMab 0#8 [5#8] true).cnt = 0#8 := by decide

theorem witness_CharacterStepsAdvance :
    (tickState phData 6#8 [] false).cnt ≠ 7#8 ∧ (tickState phData 7#8 [] false).cnt = 7#8 := by decide

theorem witness_ReservedPhaseSticks :
    (Instr.tpReserved8_15 8#4 = .tpReserved7 ∨ Instr.tpReserved8_15 8#4 = .tpReserved8_15 8#4) ∧
    ({ tickState 7#4 0#8 [] false with stuck := true } : State).stuck = true ∧
    (busIn { tickState 7#4 0#8 [] false with stuck := true }).rst = false ∧
    7 ≤ (tickState 7#4 0#8 [] false).phase.toNat ∧ 7 ≤ (7#4).toNat ∧ 7 ≤ (15#4).toNat := by decide
theorem witness_ReservedPhaseSticks_step :
    step { tickState 7#4 0#8 [] false with stuck := true } =
      .next (after { tickState 7#4 0#8 [] false with stuck := true }) := rfl

theorem witness_LineLowOnlyWhereTheFrameIsLow :
    ((tickState phData 7#8 [] false).Inv ∧ (busIn (tickState phData 7#8 [] false)).rst = false ∧
      (tickState phData 7#8 [] false).running = true) ∧
    (boundState.Inv ∧ boundState.running = false) ∧
    ((withReset (tickState phBreak 87#8 [] false) 0#40).Inv ∧ (busIn (withReset (tickState phBreak 87#8 [] false) 0#40)).rst = true) :=
  ⟨⟨inv_data, by decide, by decide⟩, ⟨inv_bound, by decide⟩,
    ⟨by decide, by decide, by decide, by decide, by decide, by decide, by decide, by decide, by decide⟩, by decide⟩

/-- A PUSH in a cycle with a tick. -/
theorem witness_StepRunsTheDecodedInstruction_write :
    busIn (withHaw (tickState phStart 0#8 [] false) 0x8000000041#40) = { rst := false, haw := some 0x8000000041#40 } ∧
    hawWr 0x8000000041#40 = true ∧
    engineStep (beginCycle (withHaw (tickState phStart 0#8 [] false) 0x8000000041#40)) =
      .next (withHaw (tickState phData 0#8 [] false) 0x8000000041#40) ∧
    exec (decodeHaw 0x8000000041#40) (withHaw (tickState phData 0#8 [] false) 0x8000000041#40) =
      .next (withHaw (tickState phData 0#8 [0x41#8] false) 0x8000000041#40) := ⟨rfl, rfl, rfl, rfl⟩
/-- A read of CLKDIV in a cycle without one. -/
theorem witness_StepRunsTheDecodedInstruction_read :
    busIn (withHaw (runState []) 0x0800000000#40) = { rst := false, haw := some 0x0800000000#40 } ∧
    hawWr 0x0800000000#40 = false ∧
    exec (decodeHaw 0x0800000000#40) (beginCycle (withHaw (runState []) 0x0800000000#40)) =
      .next { withHaw (runState []) 0x0800000000#40 with rdata := 0x01F40000#32 } ∧
    engineStep { withHaw (runState []) 0x0800000000#40 with rdata := 0x01F40000#32 } =
      .next { withHaw (runState []) 0x0800000000#40 with rdata := 0x01F40000#32, acc := 256#25 } := ⟨rfl, rfl, rfl, rfl⟩
theorem witness_StepRunsTheDecodedInstruction_idle :
    busIn (tickState phStart 0#8 [] false) = { rst := false, haw := none } ∧
    engineStep (beginCycle (tickState phStart 0#8 [] false)) = .next (tickState phData 0#8 [] false) ∧
    engineOn (tickState phStart 0#8 [] false) = true ∧
    (divider (tickState phStart 0#8 [] false).acc (d256 (tickState phStart 0#8 [] false))).1 = true := ⟨rfl, rfl, rfl, rfl⟩

theorem witness_ResetCycleResets :
    (busIn (withReset (tickState phBreak 9#8 [1#8, 2#8] true) 0x8000000041#40)).rst = true := by decide

/-- Of EveryCycleCompletes, LedgerOnlyGrows, ParametersNeverChange and the others whose premise is a next state: a step that writes, one
that resets, one that ticks. -/
theorem witness_everyCycle :
    step (withHaw (runState [1#8]) 0x8000000002#40) = .next (after (withHaw (runState [1#8]) 0x8000000002#40)) ∧
    step (withReset (runState [1#8]) 0x8000000002#40) = .next (after (withReset (runState [1#8]) 0x8000000002#40)) ∧
    step (tickState phStop2 7#8 [1#8] true) = .next (after (tickState phStop2 7#8 [1#8] true)) := ⟨rfl, rfl, rfl⟩

theorem witness_ReadDataIsOfTheCycleStart :
    step (withHaw (runState [1#8]) 0x0400000000#40) = .next (after (withHaw (runState [1#8]) 0x0400000000#40)) := rfl

theorem witness_ReadsHaveNoSideEffects : hawWr 0x7FFFFFFFFF#40 = false ∧ hawWr 0#40 = false := by decide

theorem witness_NoAccessCycleIsTheEngineStep :
    busIn (tickState phData 3#8 [] false) = { rst := false, haw := none } ∧
    step (tickState phData 3#8 [] false) = .next (after (tickState phData 3#8 [] false)) := ⟨rfl, rfl⟩

theorem witness_PollingLoopReadsStatusUntilMet :
    (withLines (runState [1#8, 2#8, 3#8, 4#8]) [.poll .notFull, .poll .done]).host = .poll .notFull :: [.poll .done] ∧
    step (withLines (runState [1#8, 2#8, 3#8, 4#8]) [.poll .notFull, .poll .done]) =
      .next (after (withLines (runState [1#8, 2#8, 3#8, 4#8]) [.poll .notFull, .poll .done])) ∧
    (withLines (runState []) [.poll .empty]).host = .poll .empty :: [] ∧
    (withLines (runState []) [.poll .done]).host = .poll .done :: [] := ⟨rfl, rfl, rfl, rfl⟩

theorem witness_StoppedEngineStandsStill :
    (withHaw boundState 0x8C00000001#40).running = false ∧ (busIn (withHaw boundState 0x8C00000001#40)).rst = false ∧
    step (withHaw boundState 0x8C00000001#40) = .next (after (withHaw boundState 0x8C00000001#40)) := ⟨rfl, rfl, rfl⟩

theorem witness_ProgramAdvancesExactlyAtTicks :
    ((busIn (runState [1#8])).rst = false ∧ tickNow (runState [1#8]) = false ∧
      step (runState [1#8]) = .next (after (runState [1#8]))) ∧
    ((busIn (tickState phMab 0#8 [1#8] false)).rst = false ∧ tickNow (tickState phMab 0#8 [1#8] false) = true ∧
      step (tickState phMab 0#8 [1#8] false) = .next (after (tickState phMab 0#8 [1#8] false))) :=
  ⟨⟨rfl, rfl, rfl⟩, rfl, rfl, rfl⟩

/-- V108, V112, V111. -/
theorem witness_SameCycleOrder :
    (decodeHaw 0x8000000005#40 = .push 0#2 0#24 5#8 ∧
      tickNow (withHaw (tickState phMab 0#8 [1#8, 2#8, 3#8, 4#8] false) 0x8000000005#40) = true ∧
      atDispatchPoint (withHaw (tickState phMab 0#8 [1#8, 2#8, 3#8, 4#8] false) 0x8000000005#40) = true ∧
      qLevel (withHaw (tickState phMab 0#8 [1#8, 2#8, 3#8, 4#8] false) 0x8000000005#40) =
        txqDepth (withHaw (tickState phMab 0#8 [1#8, 2#8, 3#8, 4#8] false) 0x8000000005#40)) ∧
    (tickNow (withHaw (tickState phIdle 0#8 [] false) 0x8000000000#40) = true ∧
      decodeHaw 0x8000000000#40 = .push 0#2 0#24 0#8) ∧
    (tickNow (withHaw (tickState phIdle 0#8 [] false) 0x8C00000002#40) = true ∧
      decodeHaw 0x8C00000002#40 = .cmdRestart 0#2 0#28) := by decide
theorem witness_SameCycleOrder_step :
    step (withHaw (tickState phMab 0#8 [1#8, 2#8, 3#8, 4#8] false) 0x8000000005#40) =
      .next (after (withHaw (tickState phMab 0#8 [1#8, 2#8, 3#8, 4#8] false) 0x8000000005#40)) ∧
    step (withHaw (tickState phIdle 0#8 [] false) 0x8000000000#40) =
      .next (after (withHaw (tickState phIdle 0#8 [] false) 0x8000000000#40)) ∧
    step (withHaw (tickState phIdle 0#8 [] false) 0x8C00000002#40) =
      .next (after (withHaw (tickState phIdle 0#8 [] false) 0x8C00000002#40)) := ⟨rfl, rfl, rfl⟩

/-- The last free entry. -/
theorem witness_PushUnderDreqIsAccepted :
    (withHaw (runState [1#8, 2#8, 3#8]) 0x8000000004#40).Inv ∧
    busIn (withHaw (runState [1#8, 2#8, 3#8]) 0x8000000004#40) = { rst := false, haw := some 0x8000000004#40 } ∧
    decodeHaw 0x8000000004#40 = .push 0#2 0#24 4#8 ∧ dreq (withHaw (runState [1#8, 2#8, 3#8]) 0x8000000004#40) = true ∧
    step (withHaw (runState [1#8, 2#8, 3#8]) 0x8000000004#40) =
      .next (after (withHaw (runState [1#8, 2#8, 3#8]) 0x8000000004#40)) :=
  ⟨⟨by decide, by decide, by decide, by decide, by decide, by decide, by decide, by decide, by decide⟩, rfl, rfl, rfl, rfl⟩

theorem witness_EveryCycleKeepsTheInvariant :
    (runState [1#8, 2#8, 3#8, 4#8]).Inv ∧
    step (runState [1#8, 2#8, 3#8, 4#8]) = .next (after (runState [1#8, 2#8, 3#8, 4#8])) := ⟨inv_full, rfl⟩

theorem witness_EveryCycleKeepsTheLedgerInvariant :
    State.LedgerInv { runState [] with errCmd := true, cycle := 3, ledger := [{ cycle := 2, err := .errCmd }] } ∧
    step { runState [] with errCmd := true, cycle := 3, ledger := [{ cycle := 2, err := .errCmd }] } =
      .next (after { runState [] with errCmd := true, cycle := 3, ledger := [{ cycle := 2, err := .errCmd }] }) :=
  ⟨⟨by decide, by decide, by decide, by decide, by decide⟩, rfl⟩

theorem witness_OnlyEnableStartsOnlyResetStops :
    (busIn (withReset (runState []) 0#40)).rst = true ∧
    ((busIn (runState [])).rst = false ∧ (runState []).running = true) ∧
    ((withHaw boundState 0x8C00000001#40).running = false ∧ (after (withHaw boundState 0x8C00000001#40)).running = true) := by
  decide

theorem witness_DivisorFrozenWhileRunning :
    (after (withHaw State.reset 0x8800046600#40)).clkdiv ≠ (withHaw State.reset 0x8800046600#40).clkdiv ∧
    (after (withReset (runState []) 0#40)).clkdiv ≠ (withReset (runState []) 0#40).clkdiv := by decide

/-- One access per flag, and the clearing of the first and the last. -/
theorem witness_ErrorFlagsChangeOnlyByTheirAccesses :
    ((runState [1#8, 2#8, 3#8, 4#8]).errTxover = false ∧
      (after (withHaw (runState [1#8, 2#8, 3#8, 4#8]) 0x8000000005#40)).errTxover = true) ∧
    (State.reset.errState = false ∧ (after (withHaw State.reset 0x8C00000002#40)).errState = true) ∧
    (State.reset.errClk = false ∧ (after (withHaw State.reset 0x8C00000001#40)).errClk = true) ∧
    (State.reset.errCmd = false ∧ (after (withHaw State.reset 0x8C00000003#40)).errCmd = true) ∧
    (after (withHaw { runState [] with errTxover := true } 0x8400010000#40)).errTxover = false ∧
    (after (withHaw { runState [] with errCmd := true } 0x8400080000#40)).errCmd = false := by decide

theorem witness_NoCharacterOrBreakIsClipped :
    (after (tickState phStop2 7#8 [1#8] true)).phase = phBreak ∧ (after (tickState phMab 0#8 [1#8] false)).phase = phStart ∧
    (tickState phStart 0#8 [] true).phase = phStart ∧ (tickState phData 7#8 [] true).phase = phData ∧
    (tickState phStop1 7#8 [] true).phase = phStop1 ∧ (tickState phBreak 0#8 [] true).phase = phBreak ∧
    (after (tickState phMab 0#8 [] false)).phase ≠ phMab := by decide

theorem witness_RestIsVisibleAndStable :
    (dividerState 1#16 0#8).Inv ∧ (dividerState 1#16 0#8).atRest ∧
    step (dividerState 1#16 0#8) = .next (after (dividerState 1#16 0#8)) ∧ (busIn (dividerState 1#16 0#8)).rst = false ∧
    (busIn (dividerState 1#16 0#8)).haw = none ∧ pushedNow (dividerState 1#16 0#8) = [] :=
  ⟨inv_smallest, ⟨rfl, rfl, rfl, rfl⟩, rfl, rfl, rfl, rfl⟩

theorem witness_DividerStep :
    (256 ≤ (256#24).toNat ∧ (0#25).toNat < (256#24).toNat ∧ (divider 0#25 256#24).1 = true) ∧
    (256 ≤ (0xFFFFFF#24).toNat ∧ (0xFFFFFE#25).toNat < (0xFFFFFF#24).toNat) ∧
    (divider 0#25 0xFFFFFF#24).1 = false := by decide

/-- The smallest and the largest divisor. -/
theorem witness_TickTimes :
    ((dividerState 1#16 0#8).Inv ∧ (dividerState 1#16 0#8).noReset ∧ (dividerState 1#16 0#8).running = true ∧
      (dividerState 1#16 0#8).acc = 0#25) ∧
    ((dividerState 0xFFFF#16 0xFF#8).Inv ∧ (dividerState 0xFFFF#16 0xFF#8).noReset ∧
      (dividerState 0xFFFF#16 0xFF#8).running = true ∧ (dividerState 0xFFFF#16 0xFF#8).acc = 0#25) :=
  ⟨⟨inv_smallest, (fun _ h => nomatch h), rfl, rfl⟩, inv_largest, (fun _ h => nomatch h), rfl, rfl⟩

theorem witness_DivisorForTheBitRate :
    divisorFor 249999#32 = none ∧ divisorFor 250000#32 = some 0x00010000#32 := by decide

/-- V18 and V17. -/
theorem witness_DivisorGrowsWithTheClock :
    (250000#32).toNat < (250001#32).toNat ∧ divisorFor 250000#32 = some 0x00010000#32 ∧
    divisorFor 250001#32 = some 0x00010000#32 := by decide

theorem witness_BindReachesRunning :
    bindProgram Config.reference.fSys = some [.wr (.name .clkdiv) 0x01F40000#32, .enable] := by decide

theorem witness_CharacterInElevenTicks : (tickState phStart 0#8 [1#8] true).phase = phStart := by decide

theorem witness_BreakAndMabInNinetySixTicks :
    (tickState phBreak 87#8 [] false).phase = phBreak ∧ (tickState phBreak 87#8 [] false).cnt = 87#8 := by decide

theorem witness_QueuedFrameOnTheWire :
    (tickState phIdle 0#8 [0#8, 0xA5#8] true).phase = phIdle ∧ (tickState phIdle 0#8 [0#8, 0xA5#8] true).rpend = true := by decide

/-- While the Host reads STATUS. -/
theorem witness_CharacterInCycles :
    (tickState phStart 0#8 [] false).Inv ∧ (tickState phStart 0#8 [] false).noReset ∧
    (tickState phStart 0#8 [] false).running = true ∧ (tickState phStart 0#8 [] false).phase = phStart ∧
    (tickState phStart 0#8 [] false).acc = 0#25 ∧ (tickState phStart 0#8 [] false).clkdiv.frac = 0#8 ∧
    (withLines (tickState phStart 0#8 [] false) [.poll .done]).noReset :=
  ⟨inv_start, (fun _ h => nomatch h), rfl, rfl, rfl, rfl, by unfold State.noReset; decide⟩

theorem witness_BreakAndMabInCycles :
    (tickState phBreak 87#8 [] false).Inv ∧ (tickState phBreak 87#8 [] false).noReset ∧
    (tickState phBreak 87#8 [] false).running = true ∧ (tickState phBreak 87#8 [] false).phase = phBreak ∧
    (tickState phBreak 87#8 [] false).cnt = 87#8 ∧ (tickState phBreak 87#8 [] false).acc = 0#25 ∧
    (tickState phBreak 87#8 [] false).clkdiv.frac = 0#8 :=
  ⟨inv_break, (fun _ h => nomatch h), rfl, rfl, rfl, rfl, rfl⟩

/-- A full queue, and the Host pushing on. -/
theorem witness_QueuedByteStartsWithinOneBit :
    (runState [1#8, 2#8, 3#8, 4#8]).Inv ∧ (runState [1#8, 2#8, 3#8, 4#8]).quiet ∧
    (runState [1#8, 2#8, 3#8, 4#8]).running = true ∧ (runState [1#8, 2#8, 3#8, 4#8]).phase = phIdle ∧
    (runState [1#8, 2#8, 3#8, 4#8]).rpend = false ∧ (runState [1#8, 2#8, 3#8, 4#8]).txq = 1#8 :: [2#8, 3#8, 4#8] ∧
    (withLines (runState []) [.poll .notFull, .cycle { rst := false, haw := some 0x8000000005#40 }]).quiet :=
  ⟨inv_full, (fun _ h => nomatch h), rfl, rfl, rfl, rfl, by unfold State.quiet; decide⟩

theorem witness_AcceptedBytesAreTakenOnceInOrder :
    (withHaw (tickState phIdle 0#8 [1#8] false) 0x8000000002#40).noReset ∧
    run 2 (withHaw (tickState phIdle 0#8 [1#8] false) 0x8000000002#40) =
      .next (after (after (withHaw (tickState phIdle 0#8 [1#8] false) 0x8000000002#40))) :=
  ⟨by unfold State.noReset; decide, rfl⟩

/-- IDLE at the largest divisor; START; BREAK and MAB at both ends of CNT. -/
theorem witness_PendingRestartStartsInTime :
    (State.Inv { dividerState 0xFFFF#16 0xFF#8 with rpend := true } ∧ State.noReset { dividerState 0xFFFF#16 0xFF#8 with rpend := true } ∧
      ({ dividerState 0xFFFF#16 0xFF#8 with rpend := true } : State).running = true ∧
      ({ dividerState 0xFFFF#16 0xFF#8 with rpend := true } : State).phase = phIdle) ∧
    ((tickState phStart 0#8 [1#8] true).phase = phStart ∧ (tickState phStart 0#8 [1#8] true).rpend = true) ∧
    ((tickState phBreak 87#8 [1#8] true).phase = phBreak ∧ (tickState phBreak 0#8 [1#8] true).rpend = true) ∧
    ((tickState phMab 7#8 [1#8] true).phase = phMab ∧ (tickState phMab 0#8 [1#8] true).rpend = true) :=
  ⟨⟨⟨by decide, by decide, by decide, by decide, by decide, by decide, by decide, by decide, by decide⟩,
    (fun _ h => nomatch h), rfl, rfl⟩, ⟨rfl, rfl⟩, ⟨rfl, rfl⟩, rfl, rfl⟩

/-- One channel, with no-access cycles between a poll and its push and after the end. -/
def pacedLines : List HostLine :=
  [idleLine, .cycle { rst := false, haw := some 0x8C00000002#40 }, .poll .notFull, idleLine, idleLine,
   .cycle { rst := false, haw := some 0x8000000000#40 }, .poll .notFull, .cycle { rst := false, haw := some 0x80000000FF#40 },
   idleLine, .poll .empty, idleLine]

theorem witness_UniverseSequenceAtAnyPace :
    (withLines (dividerState 1#16 0#8) pacedLines).Inv ∧ (withLines (dividerState 1#16 0#8) pacedLines).atRest ∧
    (withLines (dividerState 1#16 0#8) pacedLines).host.filter (fun l => decide (l ≠ idleLine)) =
      assemble (.restart :: .pushw 0#8 :: ([0xFF#8].map AsmLine.pushw ++ [.waitempty])) :=
  ⟨⟨by decide, by decide, by decide, by decide, by decide, by decide, by decide, by decide, by decide⟩,
    ⟨rfl, rfl, rfl, rfl⟩, by decide⟩

theorem witness_UniverseSequenceSendsTheFrame :
    (withLines (dividerState 1#16 0#8) (assemble (universeProgram [1#8, 0xFF#8]))).Inv ∧
    (withLines (dividerState 1#16 0#8) (assemble (universeProgram [1#8, 0xFF#8]))).atRest ∧
    (withLines (dividerState 1#16 0#8) (assemble (universeProgram [1#8, 0xFF#8]))).host =
      assemble (universeProgram [1#8, 0xFF#8]) :=
  ⟨⟨by decide, by decide, by decide, by decide, by decide, by decide, by decide, by decide, by decide⟩,
    ⟨rfl, rfl, rfl, rfl⟩, rfl⟩

end Sys2Proof.Tests
end

section
/-! SUPPORT. The register map by offset and the instructions agree: every HAW reads or writes the register its offset selects
(R8, R32, R52). -/

namespace Sys2Proof.Machine

/-- The word index of an access is bits 6:2 of its address (R52, R71). -/
theorem hawAddr_wordIndex (w : Haw) : (hawAddr w).extractLsb' 2 5 = hawReg w := by
  apply BitVec.eq_of_toNat_eq
  simp only [hawAddr, hawReg, BitVec.extractLsb'_toNat, Nat.shiftRight_eq_div_pow]
  omega

theorem memRead_hawAddr (s : State) (w : Haw) : memRead s (hawAddr w) = readValue s (hawReg w) := by
  rw [memRead, hawAddr_wordIndex]

theorem memWrite_hawAddr (s : State) (w : Haw) (v : Word) : memWrite s (hawAddr w) v = writeEffect s (hawReg w) v := by
  rw [memWrite, hawAddr_wordIndex]

/-- TXDATA, CMD and the reserved word indices read 0 (R32). -/
theorem readValue_of_ne (s : State) {reg : BitVec 5} (h1 : reg ≠ 1#5) (h2 : reg ≠ 2#5) (h4 : reg ≠ 4#5) :
    readValue s reg = 0#32 := by
  rw [readValue, if_neg h1, if_neg h2, if_neg h4]

/-- PARAM and the reserved word indices ignore a write (R32). -/
theorem writeEffect_of_le (s : State) {reg : BitVec 5} (h : 4 ≤ reg.toNat) (v : Word) : writeEffect s reg v = s := by
  unfold writeEffect
  iterate 4 rw [if_neg (Laws.RoundTrip.ne_of_toNat_ne (by simp only [BitVec.toNat_ofNat]; omega))]

/-- The command codes from 3 on are reserved (R35). -/
theorem commandEffect_of_le (s : State) {code : BitVec 4} (h : 3 ≤ code.toNat) :
    commandEffect s code = raiseErr .errCmd s := by
  unfold commandEffect
  iterate 3 rw [if_neg (Laws.RoundTrip.ne_of_toNat_ne (by simp only [BitVec.toNat_ofNat]; omega))]

/-- A read row answers what the register map reads at its word index, and changes nothing else. -/
theorem execNext_decodeRead (reg : BitVec 5) (aa : BitVec 2) (data : Word) (s : State) :
    execNext (decodeRead reg aa data) s = respond (readValue s reg) s := by
  by_cases h0 : reg = 0#5
  · rw [h0]; rfl
  by_cases h1 : reg = 1#5
  · rw [h1]; rfl
  by_cases h2 : reg = 2#5
  · rw [h2]; rfl
  by_cases h3 : reg = 3#5
  · rw [h3]; rfl
  by_cases h4 : reg = 4#5
  · rw [h4]; rfl
  -- all that remain are the reserved indices, in four rows of the table
  rw [readValue_of_ne s h1 h2 h4, decodeRead, if_neg h0, if_neg h1, if_neg h2, if_neg h3, if_neg h4]
  iterate 3 (split; · rfl)
  rfl

/-- A read access is `MemRead` of its address, driven on the read data. -/
theorem execNext_read {w : Haw} (h : hawWr w = false) (s : State) :
    execNext (decodeHaw w) s = respond (memRead s (hawAddr w)) s := by
  rw [decodeHaw_of_read h, execNext_decodeRead, memRead_hawAddr]

/-- A write access is `MemWrite` of its address and DATA. -/
theorem execNext_write {w : Haw} (h : hawWr w = true) (s : State) :
    execNext (decodeHaw w) s = memWrite s (hawAddr w) (hawData w) := by
  rw [memWrite_hawAddr]
  rcases write_cases w s h with ⟨hr, he⟩ | ⟨hr, he⟩ | ⟨hr, he⟩ | ⟨hr, hc, he⟩ | ⟨hr, hc, he⟩ | ⟨hr, hc, he⟩ | ⟨hr, hc, he⟩ | ⟨hr, he⟩
  · rw [he, hr]; rfl
  · rw [he, hr]; rfl
  · rw [he, hr]; rfl
  · rw [he, hr]; exact (congrArg (commandEffect s) hc).symm
  · rw [he, hr]; exact (congrArg (commandEffect s) hc).symm
  · rw [he, hr]; exact (congrArg (commandEffect s) hc).symm
  · rw [he, hr]; exact (commandEffect_of_le s hc).symm
  · rw [he, writeEffect_of_le s hr]

/-- Settles O17: the instruction a HAW decodes to does, by `WR`, the read or the write that the register map has at its offset. -/
theorem hostAccessFollowsTheRegisterMap : Obligations.HostAccessFollowsTheRegisterMap := by
  intro w s
  rw [exec_eq]
  cases h : hawWr w
  · rw [execNext_read h]; rfl
  · rw [execNext_write h]; rfl

end Sys2Proof.Machine
end

section
/-! SUPPORT. A cycle with the Engine's step first, and what the accesses that follow it do to the parameters, RUNNING and the divisor
(R23, R24, R45). -/

namespace Sys2Proof.Machine

/-- The read data of the cycle before does not matter to the Engine (R90). -/
theorem engineNext_beginCycle (s : State) : engineNext (beginCycle s) = beginCycle (engineNext s) :=
  engineNext_respond 0#32 s

/-- Everything a cycle can do, with the Engine's step first in every case: reset; no access or a read, which answers some word; a write
(R56, R90, R140). -/
theorem step_cases_engine_first {s t : State} (h : step s = .next t) :
    ((busIn s).rst = true ∧ t = endCycle (applyReset s)) ∨
    ((busIn s).rst = false ∧ ∃ v, t = endCycle (respond v (engineNext s))) ∨
    (∃ w, busIn s = { rst := false, haw := some w } ∧ hawWr w = true ∧
      t = endCycle (execNext (decodeHaw w) (beginCycle (engineNext s)))) := by
  rcases step_cases h with ⟨hr, ht⟩ | ⟨hr, _, ht⟩ | ⟨w, hr, hw, hb, ht⟩ | ⟨w, hr, _, hb, ht⟩
  · exact .inl ⟨hr, ht⟩
  · exact .inr (.inl ⟨hr, 0#32, by rw [ht, engineNext_beginCycle]; rfl⟩)
  · refine .inr (.inr ⟨w, ?_, hb, by rw [ht, engineNext_beginCycle]⟩)
    rw [← hr, ← hw]
  · obtain ⟨v, hv⟩ := read_cases w (beginCycle s) hb
    exact .inr (.inl ⟨hr, v, by rw [ht, hv, engineNext_respond, engineNext_beginCycle]; rfl⟩)

/-! ### What a write can change -/

section
variable {w : Haw} (hw : hawWr w = true) (s : State)
include hw

/-- No write changes the parameters (R45). -/
theorem write_cfg : (execNext (decodeHaw w) s).cfg = s.cfg := by
  rcases write_cases w s hw with
    ⟨_, he⟩ | ⟨_, he⟩ | ⟨_, he⟩ | ⟨_, _, he⟩ | ⟨_, _, he⟩ | ⟨_, _, he⟩ | ⟨_, _, he⟩ | ⟨_, he⟩ <;> simp [he]

/-- The one write that can change RUNNING is an ENABLE of a Stopped block with a legal divisor, which sets it (R23, R118). -/
theorem write_running :
    (execNext (decodeHaw w) s).running = s.running ∨
    (hawReg w = 3#5 ∧ opCode (hawData w) = 1#4 ∧ s.running = false ∧ s.clkdiv.int ≠ 0#16) := by
  rcases write_cases w s hw with
    ⟨_, he⟩ | ⟨_, he⟩ | ⟨_, he⟩ | ⟨_, _, he⟩ | ⟨hr, hc, he⟩ | ⟨_, _, he⟩ | ⟨_, _, he⟩ | ⟨_, he⟩
  case inr.inr.inr.inr.inl =>
    rcases enable_cases s with ⟨_, h⟩ | ⟨_, _, h⟩ | ⟨hstop, hint, _⟩
    · exact .inl (by simp [he, h])
    · exact .inl (by simp [he, h])
    · exact .inr ⟨hr, hc, hstop, hint⟩
  all_goals exact .inl (by simp [he])

/-- The one write that can change the divisor is a CLKDIV write of a Stopped block (R24, R117). -/
theorem write_clkdiv :
    (execNext (decodeHaw w) s).clkdiv = s.clkdiv ∨
    (hawReg w = 2#5 ∧ s.running = false ∧
      (execNext (decodeHaw w) s).clkdiv = { int := opInt (hawData w), frac := opFrac (hawData w) }) := by
  rcases write_cases w s hw with
    ⟨_, he⟩ | ⟨_, he⟩ | ⟨hr, he⟩ | ⟨_, _, he⟩ | ⟨_, _, he⟩ | ⟨_, _, he⟩ | ⟨_, _, he⟩ | ⟨_, he⟩
  case inr.inr.inl =>
    rcases setClkdiv_cases (opInt (hawData w)) (opFrac (hawData w)) s with ⟨_, h⟩ | ⟨hstop, h⟩
    · exact .inl (by simp [he, h])
    · exact .inr ⟨hr, hstop, by simp [he, h]⟩
  all_goals exact .inl (by simp [he])

end

/-! ### The parameters, RUNNING and the divisor over one cycle -/

/-- Settles O40: the Engine, the accesses and reset all hand the parameters on. -/
theorem parametersNeverChange : Obligations.ParametersNeverChange := by
  intro s t h
  rcases step_cases_engine_first h with ⟨_, rfl⟩ | ⟨_, v, rfl⟩ | ⟨w, _, hw, rfl⟩
  · simp
  · simp
  · simp [write_cfg hw]

/-- Settles O41: RUNNING is out of the Engine's reach, and of the writes only ENABLE changes it, from 0 to 1. -/
theorem onlyEnableStartsOnlyResetStops : Obligations.OnlyEnableStartsOnlyResetStops := by
  intro s t h
  rcases step_cases_engine_first h with ⟨hr, rfl⟩ | ⟨hr, v, rfl⟩ | ⟨w, hb, hw, rfl⟩
  · simp [hr]
  · simp +contextual [hr]
  · rcases write_running hw (beginCycle (engineNext s)) with hsame | ⟨hreg, hcode, hstop, hint⟩
    · simp +contextual [hb, hsame]
    · have hs : s.running = false := by simpa using hstop
      refine ⟨by simp [hb], by simp [hs], fun _ _ => ?_⟩
      exact ⟨w, _, _, hb, decodeHaw_cmdEnable_of hw hreg hcode, by simpa using hint⟩

/-- Settles O42: the divisor is out of the Engine's reach, and of the writes only WR_CLKDIV changes it, while Stopped. -/
theorem divisorFrozenWhileRunning : Obligations.DivisorFrozenWhileRunning := by
  intro s t h hne
  rcases step_cases_engine_first h with ⟨hr, rfl⟩ | ⟨hr, v, rfl⟩ | ⟨w, hb, hw, rfl⟩
  · exact .inl hr
  · exact absurd (by simp) hne
  · rcases write_clkdiv hw (beginCycle (engineNext s)) with hsame | ⟨hreg, hstop, hdiv⟩
    · exact absurd (by simp [hsame]) hne
    · exact .inr ⟨by simpa using hstop, w, _, _, _, _, hb, decodeHaw_wrClkdiv_of hw hreg, hdiv⟩

end Sys2Proof.Machine
end

section
/-! SUPPORT. Every cycle keeps the invariant: each operation of a cycle keeps it, the Engine's step and each write included. -/

namespace Sys2Proof.Machine

/-- The invariant speaks of the parameters, the lifecycle, the divider, the Timing Program's registers and the queue alone. -/
theorem State.Inv.of_frame {s t : State} (h : s.Inv)
    (hcfg : t.cfg = s.cfg := by simp) (hrun : t.running = s.running := by simp) (hdiv : t.clkdiv = s.clkdiv := by simp)
    (hacc : t.acc = s.acc := by simp) (hphase : t.phase = s.phase := by simp) (hcnt : t.cnt = s.cnt := by simp)
    (hq : t.txq = s.txq := by simp) (hrp : t.rpend = s.rpend := by simp) (hstuck : t.stuck = s.stuck := by simp) : t.Inv where
  level_le := by rw [qLevel_congr hq, txqDepth_congr hcfg]; exact h.level_le
  phase_le := by rw [hphase]; exact h.phase_le
  not_stuck := by rw [hstuck]; exact h.not_stuck
  divisor_legal := by rw [hrun, d256_congr hdiv]; exact h.divisor_legal
  acc_lt := by rw [hrun, hacc, d256_congr hdiv]; exact h.acc_lt
  stopped := by rw [hrun, hq, hphase, hrp]; exact h.stopped
  data_cnt := by rw [hphase, hcnt]; exact h.data_cnt
  break_cnt := by rw [hphase, hcnt]; exact h.break_cnt
  mab_cnt := by rw [hphase, hcnt]; exact h.mab_cnt

/-! ### The Engine -/

/-- The most ticks CNT may count in a phase: 88 in BREAK, 8 in MAB, the index of a data bit in DATA; elsewhere CNT is free (R95, R96, R98). -/
def countBound (p : PhaseCode) : Nat :=
  if p = phData then 7 else if p = phBreak then 87 else if p = phMab then 7 else 255

/-- The invariant keeps CNT within the bound of the phase. -/
theorem State.Inv.cnt_le {s : State} (h : s.Inv) : s.cnt.toNat ≤ countBound s.phase := by
  unfold countBound
  split
  · exact h.data_cnt ‹_›
  split
  · exact h.break_cnt ‹_›
  split
  · exact h.mab_cnt ‹_›
  · exact Nat.le_of_lt_succ s.cnt.isLt

/-- While Running, the Timing Program may move on as it likes within the legal phases and their counts, and take from the queue. -/
theorem State.Inv.of_program {s t : State} (h : s.Inv) (hrun : s.running = true)
    (hphase : t.phase.toNat ≤ 6) (hcnt : t.cnt.toNat ≤ countBound t.phase) (hq : t.txq.length ≤ s.txq.length := by simp)
    (hcfg : t.cfg = s.cfg := by simp) (hrun' : t.running = s.running := by simp) (hdiv : t.clkdiv = s.clkdiv := by simp)
    (hacc : t.acc = s.acc := by simp) (hstuck : t.stuck = s.stuck := by simp) : t.Inv where
  level_le := by rw [txqDepth_congr hcfg]; exact hq.trans h.level_le
  phase_le := hphase
  not_stuck := by rw [hstuck]; exact h.not_stuck
  divisor_legal := by rw [hrun', d256_congr hdiv]; exact h.divisor_legal
  acc_lt := by rw [hrun', hacc, d256_congr hdiv]; exact h.acc_lt
  stopped := by simp [hrun', hrun]
  data_cnt := fun hp => by rw [hp] at hcnt; exact hcnt
  break_cnt := fun hp => by rw [hp] at hcnt; exact hcnt
  mab_cnt := fun hp => by rw [hp] at hcnt; exact hcnt

/-- A phase without a counter puts no bound on CNT. -/
theorem cnt_le_of_uncounted (c : BitVec 8) {p : PhaseCode} (hp : countBound p = 255) : c.toNat ≤ countBound p :=
  hp ▸ Nat.le_of_lt_succ c.isLt

/-- A dispatch keeps the invariant: a break starts with 87 ticks to go, and a byte taken makes the queue shorter (R93). -/
theorem dispatch_inv {s : State} (h : s.Inv) (hrun : s.running = true) : (dispatch s).Inv := by
  rcases dispatch_cases s with ⟨_, he⟩ | ⟨b, rest, _, hq, he⟩ | ⟨_, _, he⟩ <;> rw [he]
  · exact h.of_program hrun (show phBreak.toNat ≤ 6 by decide) (show (87#8).toNat ≤ countBound phBreak by decide)
  · exact h.of_program hrun (show phStart.toNat ≤ 6 by decide) (cnt_le_of_uncounted s.cnt rfl) (by simp [hq])
  · exact h.of_program hrun (show phIdle.toNat ≤ 6 by decide) (cnt_le_of_uncounted s.cnt rfl)

/-- Counting down keeps the invariant (R95, R96). -/
theorem countDown_inv {s : State} (h : s.Inv) (hrun : s.running = true) (h0 : s.cnt ≠ 0#8) :
    State.Inv { s with cnt := s.cnt - 1#8 } := by
  have hle : (s.cnt - 1#8).toNat ≤ s.cnt.toNat := by bv_omega
  exact h.of_program hrun h.phase_le (hle.trans h.cnt_le)

/-- Counting up in DATA keeps the invariant until the last data bit (R98). -/
theorem countUp_inv {s : State} (h : s.Inv) (hrun : s.running = true) (hp : s.phase = phData) (h7 : s.cnt ≠ 7#8) :
    State.Inv { s with cnt := s.cnt + 1#8 } := by
  have hold := h.data_cnt hp
  have hle : (s.cnt + 1#8).toNat ≤ 7 := by bv_omega
  exact h.of_program hrun h.phase_le (by rw [hp]; exact hle)

/-- A tick keeps the invariant, whatever the phase (R93 to R101). -/
theorem tickNext_inv {s : State} (h : s.Inv) (hrun : s.running = true) : (tickNext s).Inv := by
  rcases tickNext_cases s with ⟨_, he⟩ | ⟨_, _, he⟩ | ⟨_, hc, he⟩ | ⟨_, _, he⟩ | ⟨_, hc, he⟩ | ⟨_, he⟩ | ⟨_, _, he⟩ |
    ⟨hp, hc, he⟩ | ⟨_, he⟩ | ⟨_, he⟩ | ⟨hp, he⟩ <;> rw [he]
  · exact dispatch_inv h hrun
  · exact h.of_program hrun (show phMab.toNat ≤ 6 by decide) (show (7#8).toNat ≤ countBound phMab by decide)
  · exact countDown_inv h hrun hc
  · exact dispatch_inv h hrun
  · exact countDown_inv h hrun hc
  · exact h.of_program hrun (show phData.toNat ≤ 6 by decide) (show (0#8).toNat ≤ countBound phData by decide)
  · exact h.of_program hrun (show phStop1.toNat ≤ 6 by decide) (cnt_le_of_uncounted s.cnt rfl)
  · exact countUp_inv h hrun hp hc
  · exact h.of_program hrun (show phStop2.toNat ≤ 6 by decide) (cnt_le_of_uncounted s.cnt rfl)
  · exact dispatch_inv h hrun
  · exact absurd h.phase_le (by omega)

/-- The divider keeps `ACC < D256` (R25, R110). -/
theorem divider_inv {s : State} (h : s.Inv) (hrun : s.running = true) :
    State.Inv { s with acc := (divider s.acc (d256 s)).2 } :=
  { h with acc_lt := fun _ => divider_lt _ _ (h.divisor_legal hrun) (h.acc_lt hrun) }

/-- The Engine's step in a cycle keeps the invariant (R90). -/
theorem engineNext_inv {s : State} (h : s.Inv) : (engineNext s).Inv := by
  cases hon : engineOn s with
  | false => rw [engineNext_off hon]; exact h
  | true =>
    have hrun : s.running = true := (Bool.and_eq_true_iff.mp hon).1
    cases ht : (divider s.acc (d256 s)).1 with
    | false => rw [engineNext_noTick hon ht]; exact divider_inv h hrun
    | true => rw [engineNext_tick hon ht]; exact tickNext_inv (divider_inv h hrun) hrun

/-! ### The host accesses -/

/-- A PUSH adds a byte only while Running and below the depth (R130). -/
theorem pushByte_inv {s : State} (h : s.Inv) (b : Byte) : (pushByte b s).Inv := by
  rcases pushByte_cases b s with ⟨_, he⟩ | ⟨_, _, he⟩ | ⟨hrun, hq, he⟩ <;> rw [he]
  · exact h.of_frame
  · exact h.of_frame
  · have hlt : qLevel s < txqDepth s := lt_of_le_of_ne h.level_le hq
    have hlevel : qLevel (qPush b s) = qLevel s + 1 := by simp [qLevel]
    exact { h with
      level_le := hlevel ▸ hlt
      stopped := fun hstop => absurd hrun (by simpa using hstop) }

/-- A CLKDIV write changes the divisor of a Stopped block only, of which the invariant asks nothing (R117). -/
theorem setClkdiv_inv {s : State} (h : s.Inv) (int : BitVec 16) (frac : BitVec 8) : (setClkdiv int frac s).Inv := by
  rcases setClkdiv_cases int frac s with ⟨_, he⟩ | ⟨hstop, he⟩ <;> rw [he]
  · exact h.of_frame
  · exact { h with
      divisor_legal := fun hrun => absurd hrun (by simp [hstop])
      acc_lt := fun hrun => absurd hrun (by simp [hstop]) }

/-- An ENABLE starts the block with a legal divisor and ACC at 0 (R118). -/
theorem enable_inv {s : State} (h : s.Inv) : (enable s).Inv := by
  rcases enable_cases s with ⟨_, he⟩ | ⟨_, _, he⟩ | ⟨_, hint, he⟩ <;> rw [he]
  · exact h.of_frame
  · exact h.of_frame
  · have hd : 256 ≤ (d256 s).toNat := (int_ne_zero_iff s).mp hint
    exact { h with
      divisor_legal := fun _ => hd
      acc_lt := fun _ => Nat.lt_of_lt_of_le (show (0#25).toNat < 256 by decide) hd
      stopped := fun hstop => absurd hstop (by simp) }

/-- A RESTART is latched only while Running (R136). -/
theorem restart_inv {s : State} (h : s.Inv) : (restart s).Inv := by
  rcases restart_cases s with ⟨_, he⟩ | ⟨hrun, he⟩ <;> rw [he]
  · exact h.of_frame
  · exact { h with stopped := fun hstop => absurd hrun (by simpa using hstop) }

/-- Every write keeps the invariant. -/
theorem write_inv {s : State} (h : s.Inv) {w : Haw} (hw : hawWr w = true) : (execNext (decodeHaw w) s).Inv := by
  rcases write_cases w s hw with
    ⟨_, he⟩ | ⟨_, he⟩ | ⟨_, he⟩ | ⟨_, _, he⟩ | ⟨_, _, he⟩ | ⟨_, _, he⟩ | ⟨_, _, he⟩ | ⟨_, he⟩ <;> rw [he]
  · exact pushByte_inv h _
  · exact h.of_frame
  · exact setClkdiv_inv h _ _
  · exact h
  · exact enable_inv h
  · exact restart_inv h
  · exact h.of_frame
  · exact h

/-! ### The whole cycle -/

/-- Reset brings the invariant about, from any state (R180, R181). -/
theorem applyReset_inv (s : State) : (applyReset s).Inv where
  level_le := Nat.zero_le _
  phase_le := Nat.zero_le _
  not_stuck := rfl
  divisor_legal := fun hrun => absurd hrun (by simp)
  acc_lt := fun hrun => absurd hrun (by simp)
  stopped := fun _ => ⟨rfl, rfl, rfl⟩
  data_cnt := fun _ => Nat.zero_le _
  break_cnt := fun _ => Nat.zero_le _
  mab_cnt := fun _ => Nat.zero_le _

/-- Settles O37: reset brings the invariant about, and the Engine's step, reads and writes each keep it. -/
theorem everyCycleKeepsTheInvariant : Obligations.EveryCycleKeepsTheInvariant := by
  intro s t h hstep
  have he : (engineNext s).Inv := engineNext_inv h
  rcases step_cases_engine_first hstep with ⟨_, rfl⟩ | ⟨_, v, rfl⟩ | ⟨w, _, hw, rfl⟩
  · exact (applyReset_inv s).of_frame
  · exact he.of_frame
  · exact (write_inv (s := beginCycle (engineNext s)) he.of_frame hw).of_frame

end Sys2Proof.Machine
end

section
/-! SUPPORT. What the Engine's step does to the queue and to the ledger; and what a PUSH under `dreq` does. -/

namespace Sys2Proof.Machine

/-- A dispatch takes the head of the queue unless a restart is pending (R93). -/
theorem dispatch_txq (s : State) : (dispatch s).txq = if s.rpend then s.txq else s.txq.drop 1 := by
  rcases dispatch_cases s with ⟨hrp, he⟩ | ⟨b, rest, hrp, hq, he⟩ | ⟨hrp, hq, he⟩
  · simp [he, hrp]
  · simp [he, hrp, hq]
  · simp [he, hrp, hq]

/-- A reserved phase is no dispatch point (R93, R101). -/
theorem not_atDispatchPoint_of_reserved {s : State} (h : 7 ≤ s.phase.toNat) : atDispatchPoint s = false := by
  have hne : ∀ k : PhaseCode, k.toNat < 7 → s.phase ≠ k := fun k hk e => by rw [e] at h; omega
  simp [atDispatchPoint, hne phIdle (by decide), hne phMab (by decide), hne phStop2 (by decide)]

/-- At a dispatch point a tick dispatches; elsewhere it leaves the queue alone (R93 to R101). -/
theorem tickNext_txq (s : State) : (tickNext s).txq = if atDispatchPoint s then (dispatch s).txq else s.txq := by
  rcases tickNext_cases s with ⟨hp, he⟩ | ⟨hp, _, he⟩ | ⟨hp, _, he⟩ | ⟨hp, hc, he⟩ | ⟨hp, hc, he⟩ | ⟨hp, he⟩ | ⟨hp, _, he⟩ |
    ⟨hp, _, he⟩ | ⟨hp, he⟩ | ⟨hp, he⟩ | ⟨hp, he⟩
  case inr.inr.inr.inr.inr.inr.inr.inr.inr.inr =>
    simp [he, not_atDispatchPoint_of_reserved hp]
  case inr.inr.inr.inl | inr.inr.inr.inr.inl => simp [he, atDispatchPoint, hp, hc, phIdle, phMab, phStop2]
  all_goals simp [he, atDispatchPoint, hp, phIdle, phBreak, phMab, phStart, phData, phStop1, phStop2]

/-- Out of reset, the Engine's step leaves in the queue what it does not take (R93). -/
theorem engineNext_txq {s : State} (hr : (busIn s).rst = false) : (engineNext s).txq = s.txq.drop (poppedNow s).length := by
  cases hon : engineOn s with
  | false => simp [engineNext_off hon, poppedNow, tickNow, hon]
  | true =>
    cases ht : (divider s.acc (d256 s)).1 with
    | false => simp [engineNext_noTick hon ht, poppedNow, tickNow, ht]
    | true =>
      have hd : atDispatchPoint { s with acc := (divider s.acc (d256 s)).2 } = atDispatchPoint s := rfl
      rw [engineNext_tick hon ht, tickNext_txq, hd, dispatch_txq]
      cases hdp : atDispatchPoint s with
      | false => simp [poppedNow, hdp]
      | true => cases hrp : s.rpend <;> cases hq : s.txq <;> simp [poppedNow, tickNow, hr, hon, ht, hdp, hrp, hq]

/-- The Engine takes no byte that is not queued. -/
theorem poppedNow_length_le (s : State) : (poppedNow s).length ≤ s.txq.length := by
  unfold poppedNow
  split <;> simp

/-- A tick in a legal phase records nothing (R101). -/
theorem tickNext_ledger {s : State} (h : s.phase.toNat ≤ 6) : (tickNext s).ledger = s.ledger := by
  rcases tickNext_cases s with ⟨_, he⟩ | ⟨_, _, he⟩ | ⟨_, _, he⟩ | ⟨_, _, he⟩ | ⟨_, _, he⟩ | ⟨_, he⟩ | ⟨_, _, he⟩ | ⟨_, _, he⟩ |
    ⟨_, he⟩ | ⟨_, he⟩ | ⟨hp, _⟩
  case inr.inr.inr.inr.inr.inr.inr.inr.inr.inr => omega
  all_goals simp [he]

/-- In a legal phase the Engine records nothing (R101). -/
theorem engineNext_ledger {s : State} (h : s.phase.toNat ≤ 6) : (engineNext s).ledger = s.ledger := by
  cases hon : engineOn s with
  | false => rw [engineNext_off hon]
  | true =>
    cases ht : (divider s.acc (d256 s)).1 with
    | false => rw [engineNext_noTick hon ht]
    | true => rw [engineNext_tick hon ht]; exact tickNext_ledger h

/-! ### A PUSH under dreq -/

/-- `dreq` is 1 exactly while Running with a free entry, below the depth (R41). -/
theorem dreq_iff (s : State) : dreq s = true ↔ s.running = true ∧ qLevel s < txqDepth s := by
  simp [dreq]

/-- A PUSH in a Running block with a free entry appends its byte (R130). -/
theorem pushByte_of_free {s : State} (b : Byte) (hrun : s.running = true) (hfree : qLevel s < txqDepth s) :
    pushByte b s = qPush b s := by
  rcases pushByte_cases b s with ⟨hstop, _⟩ | ⟨_, hfull, _⟩ | ⟨_, _, he⟩
  · simp [hrun] at hstop
  · omega
  · exact he

/-- A cycle with a PUSH runs it after the Engine's step (R90, R130). -/
theorem step_push {s t : State} {w : Haw} {aa : BitVec 2} {hi : BitVec 24} {b : Byte}
    (hb : busIn s = { rst := false, haw := some w }) (hd : decodeHaw w = .push aa hi b) (h : step s = .next t) :
    t = endCycle (pushByte b (beginCycle (engineNext s))) := by
  obtain ⟨hw, _, _⟩ := decodeHaw_push hd
  rcases step_cases h with ⟨hr, _⟩ | ⟨_, hn, _⟩ | ⟨v, _, hv, _, ht⟩ | ⟨v, _, hv, hrd, _⟩
  · simp [hb] at hr
  · simp [hb] at hn
  · obtain rfl : w = v := by simpa [hb] using hv
    rw [ht, engineNext_beginCycle, hd]
    rfl
  · obtain rfl : w = v := by simpa [hb] using hv
    simp [hw] at hrd

/-- Settles O35: the Engine only makes room, so a PUSH that finds a free entry at the start of the cycle still finds it. -/
theorem pushUnderDreqIsAccepted : Obligations.PushUnderDreqIsAccepted := by
  intro s t w aa hi b hinv hb hd
  refine ⟨dreq_iff s, fun hdreq hstep => ?_⟩
  obtain ⟨hrun, hfree⟩ := (dreq_iff s).mp hdreq
  obtain ⟨hw, hreg, hbyte⟩ := decodeHaw_push hd
  have hroom : s.txq.length < txqDepth s := hfree
  have hr : (busIn s).rst = false := by rw [hb]
  have hq : (engineNext s).txq = s.txq.drop (poppedNow s).length := engineNext_txq hr
  have hfree' : qLevel (beginCycle (engineNext s)) < txqDepth (beginCycle (engineNext s)) := by
    simp only [qLevel, beginCycle_txq, hq, List.length_drop, txqDepth, beginCycle_cfg, engineNext_cfg]
    exact (Nat.sub_le _ _).trans_lt hroom
  obtain rfl := step_push hb hd hstep
  rw [pushByte_of_free b (by simpa using hrun) hfree']
  refine ⟨?_, ⟨(engineNext s).txq, by simp, by simp [hq]⟩, by simp, by simp, by simp [engineNext_ledger hinv.phase_le]⟩
  have hne : s.txq.length - (poppedNow s).length ≠ txqDepth s := by omega
  simp [acceptedNow, pushedNow, hrun, hne, hb, hw, hreg, hbyte]

end Sys2Proof.Machine
end

section
/-! SUPPORT. Where the line is low (R40, R91, R105). -/

namespace Sys2Proof.Machine

/-- In a legal phase the line is low exactly in BREAK, in START and in a 0 data bit (R91). -/
theorem lineLevel_eq_low_iff {p : PhaseCode} {n : BitVec 8} {b : Byte} (hp : p.toNat ≤ 6) (hn : p = phData → n.toNat ≤ 7) :
    lineLevel p n b = some false ↔ p = phBreak ∨ p = phStart ∨ (p = phData ∧ b.getLsbD n.toNat = false) := by
  rcases phase_cases p with rfl | rfl | rfl | rfl | rfl | rfl | rfl | h
  case inr.inr.inr.inr.inl =>
    have hbit : (n.extractLsb' 0 3).toNat = n.toNat := by
      rw [BitVec.extractLsb'_toNat, Nat.shiftRight_zero, Nat.mod_eq_of_lt (Nat.lt_succ_of_le (hn rfl))]
    simp [lineLevel, hbit, phIdle, phBreak, phMab, phStart, phData]
  case inr.inr.inr.inr.inr.inr.inr => omega
  all_goals simp [lineLevel, phIdle, phBreak, phMab, phStart, phData, phStop1, phStop2]

/-- Settles O23: in reset and while Stopped the line is held at mark; else it is the level of the phase, which is legal. -/
theorem lineLowOnlyWhereTheFrameIsLow : Obligations.LineLowOnlyWhereTheFrameIsLow := by
  intro s h
  refine ⟨fun hmark => ?_, fun hr hrun => ?_⟩
  · rcases hmark with hr | hstop
    · simp [dmxTx, hr]
    · simp [dmxTx, hstop]
  · have hline : dmxTx s = lineLevel s.phase s.cnt s.shift := by simp [dmxTx, hr, hrun]
    rw [hline]
    refine ⟨lineLevel_eq_low_iff h.phase_le h.data_cnt, ?_⟩
    obtain ⟨v, hv⟩ := lineLevel_of_le h.phase_le s.cnt s.shift
    cases v
    · exact .inl hv
    · exact .inr hv

end Sys2Proof.Machine
end

section
/-! SUPPORT. The sticky error flags and the fault ledger: what sets a flag, what clears it, and that the ledger accounts for it
(R31, R133, R162). -/

namespace Sys2Proof.Machine

/-- The sticky flag of an error (R31); `BAD_PHASE` has none (R101). -/
def stickyFlag (e : ModelFault) (s : State) : Bool :=
  match e with
  | .errTxover => s.errTxover
  | .errState => s.errState
  | .errClk => s.errClk
  | .errCmd => s.errCmd
  | .badPhase => false

@[simp] theorem stickyFlag_beginCycle (e : ModelFault) (s : State) : stickyFlag e (beginCycle s) = stickyFlag e s := rfl
@[simp] theorem stickyFlag_endCycle (e : ModelFault) (s : State) : stickyFlag e (endCycle s) = stickyFlag e s := rfl
@[simp] theorem stickyFlag_respond (v : Word) (e : ModelFault) (s : State) : stickyFlag e (respond v s) = stickyFlag e s := rfl
@[simp] theorem stickyFlag_applyReset (e : ModelFault) (s : State) : stickyFlag e (applyReset s) = false := by cases e <;> rfl
@[simp] theorem stickyFlag_engineNext (e : ModelFault) (s : State) : stickyFlag e (engineNext s) = stickyFlag e s := by
  cases e <;> simp [stickyFlag]

/-- A flag set after a raise was set before, or is the flag of the error raised. -/
theorem stickyFlag_of_raiseErr {e f : ModelFault} {s : State} (h : stickyFlag e (raiseErr f s) = true) :
    stickyFlag e s = true ∨ f = e := by
  cases e
  case badPhase => simp [stickyFlag] at h
  all_goals simpa [stickyFlag] using h

/-- A raise clears no flag. -/
theorem stickyFlag_raiseErr_of_set {e : ModelFault} (f : ModelFault) {s : State} (h : stickyFlag e s = true) :
    stickyFlag e (raiseErr f s) = true := by
  cases e <;> simp_all [stickyFlag]

/-- A STATUS write sets no flag. -/
theorem stickyFlag_of_clearErrors {e : ModelFault} {m : BitVec 4} {s : State} (h : stickyFlag e (clearErrors m s) = true) :
    stickyFlag e s = true := by
  cases e <;> simp_all [stickyFlag, clearErrors]

/-- The row of R31: the write `w`, and the state it meets, that raise an error. -/
def RaiseCause (e : ModelFault) (w : Haw) (s : State) : Prop :=
  match e with
  | .errTxover => hawReg w = 0#5 ∧ s.running = true ∧ qLevel s = txqDepth s
  | .errState =>
    (s.running = false ∧ (hawReg w = 0#5 ∨ (hawReg w = 3#5 ∧ opCode (hawData w) = 2#4))) ∨
    (s.running = true ∧ (hawReg w = 2#5 ∨ (hawReg w = 3#5 ∧ opCode (hawData w) = 1#4)))
  | .errClk => hawReg w = 3#5 ∧ opCode (hawData w) = 1#4 ∧ s.running = false ∧ s.clkdiv.int = 0#16
  | .errCmd => hawReg w = 3#5 ∧ 3 ≤ (opCode (hawData w)).toNat
  | .badPhase => False

/-- `t` has the sticky flags, the ledger and the cycle number of `s`. -/
def SameErrors (s t : State) : Prop := (∀ e, stickyFlag e t = stickyFlag e s) ∧ t.ledger = s.ledger ∧ t.cycle = s.cycle

/-- Everything a write can do to the errors: raise one, by its row of R31; clear some, by WR_STATUS; or leave them alone. -/
theorem write_errors {w : Haw} (hw : hawWr w = true) (s : State) :
    (∃ e, RaiseCause e w s ∧ execNext (decodeHaw w) s = raiseErr e s) ∨
    (hawReg w = 1#5 ∧ execNext (decodeHaw w) s = clearErrors (opClearMask (hawData w)) s) ∨
    SameErrors s (execNext (decodeHaw w) s) := by
  rcases write_cases w s hw with
    ⟨hr, he⟩ | ⟨hr, he⟩ | ⟨hr, he⟩ | ⟨_, _, he⟩ | ⟨hr, hc, he⟩ | ⟨hr, hc, he⟩ | ⟨hr, hc, he⟩ | ⟨_, he⟩ <;> rw [he]
  · rcases pushByte_cases (opByte (hawData w)) s with ⟨hs, h⟩ | ⟨hs, hq, h⟩ | ⟨_, _, h⟩
    · exact .inl ⟨.errState, .inl ⟨hs, .inl hr⟩, h⟩
    · exact .inl ⟨.errTxover, ⟨hr, hs, hq⟩, h⟩
    · exact .inr (.inr (h ▸ ⟨fun _ => rfl, rfl, rfl⟩))
  · exact .inr (.inl ⟨hr, rfl⟩)
  · rcases setClkdiv_cases (opInt (hawData w)) (opFrac (hawData w)) s with ⟨hs, h⟩ | ⟨_, h⟩
    · exact .inl ⟨.errState, .inr ⟨hs, .inl hr⟩, h⟩
    · exact .inr (.inr (h ▸ ⟨fun _ => rfl, rfl, rfl⟩))
  · exact .inr (.inr ⟨fun _ => rfl, rfl, rfl⟩)
  · rcases enable_cases s with ⟨hs, h⟩ | ⟨hs, hi, h⟩ | ⟨_, _, h⟩
    · exact .inl ⟨.errState, .inr ⟨hs, .inr ⟨hr, hc⟩⟩, h⟩
    · exact .inl ⟨.errClk, ⟨hr, hc, hs, hi⟩, h⟩
    · exact .inr (.inr (h ▸ ⟨fun _ => rfl, rfl, rfl⟩))
  · rcases restart_cases s with ⟨hs, h⟩ | ⟨_, h⟩
    · exact .inl ⟨.errState, .inl ⟨hs, .inr ⟨hr, hc⟩⟩, h⟩
    · exact .inr (.inr (h ▸ ⟨fun _ => rfl, rfl, rfl⟩))
  · exact .inl ⟨.errCmd, ⟨hr, hc⟩, rfl⟩
  · exact .inr (.inr ⟨fun _ => rfl, rfl, rfl⟩)

/-- Everything the Engine's step can do to the errors: nothing, or record `BAD_PHASE` (R101). -/
theorem engineNext_errors (s : State) :
    SameErrors s (engineNext s) ∨ engineNext s = badPhaseStop { s with acc := (divider s.acc (d256 s)).2 } := by
  by_cases hp : s.phase.toNat ≤ 6
  · exact .inl ⟨fun e => stickyFlag_engineNext e s, engineNext_ledger hp, engineNext_cycle s⟩
  cases hon : engineOn s with
  | false => rw [engineNext_off hon]; exact .inl ⟨fun _ => rfl, rfl, rfl⟩
  | true =>
    cases ht : (divider s.acc (d256 s)).1 with
    | false => rw [engineNext_noTick hon ht]; exact .inl ⟨fun _ => rfl, rfl, rfl⟩
    | true => rw [engineNext_tick hon ht]; exact .inr (tickNext_reserved (Nat.lt_of_not_le hp))

/-! ### The flags over one cycle -/

/-- A flag goes up only by a write of its row of R31, under the row's condition on the state the Engine left. -/
theorem step_sets_flag {s t : State} (e : ModelFault) (h : step s = .next t)
    (h0 : stickyFlag e s = false) (h1 : stickyFlag e t = true) :
    ∃ w, busIn s = { rst := false, haw := some w } ∧ hawWr w = true ∧ RaiseCause e w (engineNext s) := by
  rcases step_cases_engine_first h with ⟨_, rfl⟩ | ⟨_, v, rfl⟩ | ⟨w, hb, hw, rfl⟩
  · simp at h1
  · simp [h0] at h1
  · have hbefore : ¬ stickyFlag e (beginCycle (engineNext s)) = true := by simp [h0]
    rw [stickyFlag_endCycle] at h1
    rcases write_errors hw (beginCycle (engineNext s)) with ⟨f, hcause, he⟩ | ⟨_, he⟩ | ⟨he, _, _⟩
    · obtain hset | rfl := stickyFlag_of_raiseErr (he ▸ h1)
      · exact absurd hset hbefore
      · exact ⟨w, hb, hw, by cases f <;> exact hcause⟩
    · exact absurd (stickyFlag_of_clearErrors (he ▸ h1)) hbefore
    · exact absurd ((he e).symm.trans h1) hbefore

/-- The error whose flag bit `k` of the clear mask of WR_STATUS clears (R133). -/
def maskFault : Fin 4 → ModelFault := ![.errTxover, .errState, .errClk, .errCmd]

theorem stickyFlag_maskFault (k : Fin 4) (s : State) :
    stickyFlag (maskFault k) s = [s.errTxover, s.errState, s.errClk, s.errCmd][k] := by
  fin_cases k <;> rfl

theorem stickyFlag_clearErrors (k : Fin 4) (m : BitVec 4) (s : State) :
    stickyFlag (maskFault k) (clearErrors m s) = (stickyFlag (maskFault k) s && !m.getLsbD k) := by
  fin_cases k <;> rfl

/-- A flag goes down only by reset, or by a WR_STATUS whose mask has its bit. -/
theorem step_clears_flag {s t : State} (k : Fin 4) (h : step s = .next t)
    (h1 : stickyFlag (maskFault k) s = true) (h0 : stickyFlag (maskFault k) t = false) :
    (busIn s).rst = true ∨ ∃ w, busIn s = { rst := false, haw := some w } ∧ hawWr w = true ∧ hawReg w = 1#5 ∧
      (opClearMask (hawData w)).getLsbD k = true := by
  rcases step_cases_engine_first h with ⟨hr, _⟩ | ⟨_, v, rfl⟩ | ⟨w, hb, hw, rfl⟩
  · exact .inl hr
  · simp [h1] at h0
  · have hbefore : stickyFlag (maskFault k) (beginCycle (engineNext s)) = true := by simp [h1]
    rw [stickyFlag_endCycle] at h0
    rcases write_errors hw (beginCycle (engineNext s)) with ⟨f, _, he⟩ | ⟨hr, he⟩ | ⟨he, _, _⟩
    · exact absurd (stickyFlag_raiseErr_of_set f hbefore) (by simp [← he, h0])
    · rw [he, stickyFlag_clearErrors, hbefore] at h0
      exact .inr ⟨w, hb, hw, hr, by simpa using h0⟩
    · exact absurd ((he _).trans hbefore) (by simp [h0])

/-- Settles O43: a flag goes up only by its row of R31, and down only by reset or its bit of a STATUS write. -/
theorem errorFlagsChangeOnlyByTheirAccesses : Obligations.ErrorFlagsChangeOnlyByTheirAccesses := by
  intro s t h
  refine ⟨fun h0 h1 => ?_, fun h0 h1 => ?_, fun h0 h1 => ?_, fun h0 h1 => ?_, fun k h1 h0 => ?_⟩
  · obtain ⟨w, hb, hw, hreg, hrun, hfull⟩ := step_sets_flag .errTxover h h0 h1
    have hq := engineNext_txq (s := s) (by rw [hb])
    exact ⟨w, _, _, _, hb, decodeHaw_push_of hw hreg, by simpa using hrun, by simpa [qLevel, txqDepth, hq] using hfull⟩
  · obtain ⟨w, hb, hw, ⟨hstop, hacc⟩ | ⟨hrun, hacc⟩⟩ := step_sets_flag .errState h h0 h1
    · refine ⟨w, hb, .inl ⟨by simpa using hstop, ?_⟩⟩
      rcases hacc with hreg | ⟨hreg, hcode⟩
      · exact .inl ⟨_, _, _, decodeHaw_push_of hw hreg⟩
      · exact .inr ⟨_, _, decodeHaw_cmdRestart_of hw hreg hcode⟩
    · refine ⟨w, hb, .inr ⟨by simpa using hrun, ?_⟩⟩
      rcases hacc with hreg | ⟨hreg, hcode⟩
      · exact .inl ⟨_, _, _, _, decodeHaw_wrClkdiv_of hw hreg⟩
      · exact .inr ⟨_, _, decodeHaw_cmdEnable_of hw hreg hcode⟩
  · obtain ⟨w, hb, hw, hreg, hcode, hstop, hint⟩ := step_sets_flag .errClk h h0 h1
    exact ⟨w, _, _, hb, decodeHaw_cmdEnable_of hw hreg hcode, by simpa using hstop, by simpa using hint⟩
  · obtain ⟨w, hb, hw, hreg, hcode⟩ := step_sets_flag .errCmd h h0 h1
    exact ⟨w, hb, hw, hreg, hcode⟩
  · rw [← stickyFlag_maskFault] at h0 h1
    obtain hr | ⟨w, hb, hw, hreg, hbit⟩ := step_clears_flag k h h1 h0
    · exact .inl hr
    · exact .inr ⟨w, _, _, _, _, hb, decodeHaw_wrStatus_of hw hreg, hbit⟩

/-! ### The ledger's account of the flags -/

/-- The ledger's account within a cycle: an entry may be of the cycle that is under way. -/
structure State.LedgerAccount (s : State) : Prop where
  entry : ∀ e, stickyFlag e s = true → ∃ x ∈ s.ledger, x.err = e
  past : ∀ x ∈ s.ledger, x.cycle ≤ s.cycle

/-- Between two cycles the account has no entry of the cycle to come. -/
theorem State.LedgerInv.account {s : State} (h : s.LedgerInv) : s.LedgerAccount where
  entry
    | .errTxover => h.txover
    | .errState => h.state
    | .errClk => h.clk
    | .errCmd => h.cmd
    | .badPhase => fun hb => absurd hb Bool.false_ne_true
  past := fun x hx => (h.past x hx).le

/-- The end of the cycle closes the account: its entries are of cycles past. -/
theorem State.LedgerAccount.endCycle_inv {s : State} (h : s.LedgerAccount) : (endCycle s).LedgerInv where
  txover := h.entry .errTxover
  state := h.entry .errState
  clk := h.entry .errClk
  cmd := h.entry .errCmd
  past := fun x hx => Nat.lt_succ_of_le (h.past x hx)

/-- An operation that sets no flag and leaves the ledger and the cycle number alone keeps the account. -/
theorem State.LedgerAccount.of_no_new_flag {s t : State} (h : s.LedgerAccount)
    (hflag : ∀ e, stickyFlag e t = true → stickyFlag e s = true) (hl : t.ledger = s.ledger) (hc : t.cycle = s.cycle) :
    t.LedgerAccount where
  entry := fun e he => hl ▸ h.entry e (hflag e he)
  past := by rw [hl, hc]; exact h.past

/-- An operation that appends an entry of this cycle and sets at most its flag keeps the account. -/
theorem State.LedgerAccount.of_record {s t : State} {f : ModelFault} (h : s.LedgerAccount)
    (hflag : ∀ e, stickyFlag e t = true → stickyFlag e s = true ∨ f = e)
    (hl : t.ledger = s.ledger ++ [{ cycle := s.cycle, err := f }]) (hc : t.cycle = s.cycle) : t.LedgerAccount where
  entry := by
    intro e he
    rw [hl]
    obtain hold | rfl := hflag e he
    · obtain ⟨x, hx, hxe⟩ := h.entry e hold
      exact ⟨x, List.mem_append_left _ hx, hxe⟩
    · exact ⟨_, List.mem_append_right _ (List.mem_singleton_self _), rfl⟩
  past := by
    intro x hx
    rw [hl, List.mem_append, List.mem_singleton] at hx
    obtain hx | rfl := hx
    · exact hc ▸ h.past x hx
    · exact hc.ge

/-- What leaves the errors alone keeps the account. -/
theorem State.LedgerAccount.of_sameErrors {s t : State} (h : s.LedgerAccount) (hsame : SameErrors s t) : t.LedgerAccount := by
  obtain ⟨hflag, hl, hc⟩ := hsame
  exact h.of_no_new_flag (fun e he => hflag e ▸ he) hl hc

/-- The Engine's step keeps the account. -/
theorem engineNext_account {s : State} (h : s.LedgerAccount) : (engineNext s).LedgerAccount := by
  rcases engineNext_errors s with hsame | he
  · exact h.of_sameErrors hsame
  · exact h.of_record (f := .badPhase) (fun e hset => .inl (by simpa using hset)) (by rw [he]; rfl) (engineNext_cycle s)

/-- Every write keeps the account. -/
theorem write_account {s : State} (h : s.LedgerAccount) {w : Haw} (hw : hawWr w = true) :
    (execNext (decodeHaw w) s).LedgerAccount := by
  rcases write_errors hw s with ⟨f, _, he⟩ | ⟨_, he⟩ | hsame
  · rw [he]
    exact h.of_record (fun _ => stickyFlag_of_raiseErr) (raiseErr_ledger f s) (raiseErr_cycle f s)
  · rw [he]
    exact h.of_no_new_flag (fun _ => stickyFlag_of_clearErrors) rfl rfl
  · exact h.of_sameErrors hsame

/-- Settles O38: reset leaves no flag to account for, and the Engine's step and the accesses each keep the ledger's account. -/
theorem everyCycleKeepsTheLedgerInvariant : Obligations.EveryCycleKeepsTheLedgerInvariant := by
  intro s t h hstep
  have hengine : (engineNext s).LedgerAccount := engineNext_account h.account
  rcases step_cases_engine_first hstep with ⟨_, rfl⟩ | ⟨_, v, rfl⟩ | ⟨w, _, hw, rfl⟩
  · exact (h.account.of_no_new_flag (by simp) rfl rfl : (applyReset s).LedgerAccount).endCycle_inv
  · exact (hengine.of_sameErrors ⟨fun _ => rfl, rfl, rfl⟩ : (respond v (engineNext s)).LedgerAccount).endCycle_inv
  · have hbegin : (beginCycle (engineNext s)).LedgerAccount := hengine.of_sameErrors ⟨fun _ => rfl, rfl, rfl⟩
    exact (write_account hbegin hw).endCycle_inv

end Sys2Proof.Machine
end

section
/-! SUPPORT. The register window seen cycle by cycle (R56, R59): the read data of a cycle, what a read leaves alone, and the account of
the queue's bytes (R61, R106). -/

namespace Sys2Proof.Machine

/-! ### What a write leaves alone, and what it puts into the queue -/

section
variable {w : Haw} (hw : hawWr w = true) (s : State)
include hw

/-- No write drives the read data (R39). -/
theorem write_rdata : (execNext (decodeHaw w) s).rdata = s.rdata := by
  rcases write_cases w s hw with
    ⟨_, he⟩ | ⟨_, he⟩ | ⟨_, he⟩ | ⟨_, _, he⟩ | ⟨_, _, he⟩ | ⟨_, _, he⟩ | ⟨_, _, he⟩ | ⟨_, he⟩ <;> simp [he]

/-- No write changes what the Host has pending. -/
theorem write_host : (execNext (decodeHaw w) s).host = s.host := by
  rcases write_cases w s hw with
    ⟨_, he⟩ | ⟨_, he⟩ | ⟨_, he⟩ | ⟨_, _, he⟩ | ⟨_, _, he⟩ | ⟨_, _, he⟩ | ⟨_, _, he⟩ | ⟨_, he⟩ <;> simp [he]

/-- The one write that reaches the queue is a PUSH (R32, R130). -/
theorem write_txq :
    (execNext (decodeHaw w) s).txq = if hawReg w = 0#5 then (pushByte (opByte (hawData w)) s).txq else s.txq := by
  rcases write_cases w s hw with
    ⟨hr, he⟩ | ⟨hr, he⟩ | ⟨hr, he⟩ | ⟨hr, _, he⟩ | ⟨hr, _, he⟩ | ⟨hr, _, he⟩ | ⟨hr, _, he⟩ | ⟨hr, he⟩
  case inr.inr.inr.inr.inr.inr.inr =>
    rw [he, if_neg (Laws.RoundTrip.ne_of_toNat_ne (by simp only [BitVec.toNat_ofNat]; omega))]
  all_goals simp [he, hr]

end

/-- A PUSH appends its byte exactly while Running and off the depth (R130). -/
theorem pushByte_txq (b : Byte) (s : State) :
    (pushByte b s).txq = s.txq ++ if s.running && qLevel s != txqDepth s then [b] else [] := by
  rcases pushByte_cases b s with ⟨hrun, he⟩ | ⟨hrun, hq, he⟩ | ⟨hrun, hq, he⟩
  · simp [he, hrun]
  · simp [he, hrun, hq]
  · simp [he, hrun, hq]

/-! ### The read data -/

/-- Settles O28: the Engine, reset and the writes leave the read data at 0; a read is `MemRead` on the state before the Engine's step. -/
theorem readDataIsOfTheCycleStart : Obligations.ReadDataIsOfTheCycleStart := by
  intro s t h
  rcases step_cases h with ⟨hr, rfl⟩ | ⟨hr, hn, rfl⟩ | ⟨w, hr, hw, hb, rfl⟩ | ⟨w, hr, hw, hb, rfl⟩
  · simp [busRdata, hr]
  · simp [busRdata, hr, hn]
  · simp [busRdata, hr, hw, hb, write_rdata]
  · have hread : memRead (beginCycle s) (hawAddr w) = memRead s (hawAddr w) := rfl
    simp [busRdata, hr, hw, hb, execNext_read, hread]

/-! ### Cycles without a write -/

/-- Every cycle ends in a next state (R160). -/
theorem step_next (s : State) : ∃ t, step s = .next t := by
  unfold step cycleStep
  split
  · exact ⟨_, rfl⟩
  split
  · simp [cycleIdle, engineStep_eq]
  · split
    · simp [cycleWrite, engineStep_eq, exec_eq]
    · simp [cycleRead, engineStep_eq, exec_eq]

/-- Out of reset, a cycle without a write is the Engine's step with the read data driven (R56, R140). -/
theorem step_of_noWrite {s : State} (hr : (busIn s).rst = false) (hread : ∀ w, (busIn s).haw = some w → hawWr w = false) :
    step s = .next (endCycle (respond (busRdata s) (engineNext s))) := by
  obtain ⟨t, h⟩ := step_next s
  have hdata : t.rdata = busRdata s := readDataIsOfTheCycleStart s t h
  rcases step_cases_engine_first h with ⟨hrst, _⟩ | ⟨_, v, rfl⟩ | ⟨w, hb, hw, _⟩
  · simp [hr] at hrst
  · rw [h, ← hdata]; rfl
  · simp [hread w (by rw [hb])] at hw

/-- The state with `l` as what the Host has pending. -/
def withPending (l : List HostLine) (s : State) : State := { s with host := l }

theorem dispatch_withPending (l : List HostLine) (s : State) : dispatch (withPending l s) = withPending l (dispatch s) := by
  unfold dispatch withPending
  cases s.rpend <;> cases s.txq <;> rfl

/-- A tick step does not look at what the Host has pending. -/
theorem tickNext_withPending (l : List HostLine) (s : State) : tickNext (withPending l s) = withPending l (tickNext s) := by
  rcases tickNext_cases s with ⟨hp, he⟩ | ⟨hp, hc, he⟩ | ⟨hp, hc, he⟩ | ⟨hp, hc, he⟩ | ⟨hp, hc, he⟩ | ⟨hp, he⟩ | ⟨hp, hc, he⟩ |
    ⟨hp, hc, he⟩ | ⟨hp, he⟩ | ⟨hp, he⟩ | ⟨hp, he⟩ <;> rw [he]
  · exact (tickNext_idle (s := withPending l s) hp).trans (dispatch_withPending l s)
  · exact (tickNext_break (s := withPending l s) hp).trans (if_pos hc)
  · exact (tickNext_break (s := withPending l s) hp).trans (if_neg hc)
  · exact ((tickNext_mab (s := withPending l s) hp).trans (if_pos hc)).trans (dispatch_withPending l s)
  · exact (tickNext_mab (s := withPending l s) hp).trans (if_neg hc)
  · exact tickNext_start (s := withPending l s) hp
  · exact (tickNext_data (s := withPending l s) hp).trans (if_pos hc)
  · exact (tickNext_data (s := withPending l s) hp).trans (if_neg hc)
  · exact tickNext_stop1 (s := withPending l s) hp
  · exact (tickNext_stop2 (s := withPending l s) hp).trans (dispatch_withPending l s)
  · exact tickNext_reserved (s := withPending l s) hp

/-- The Engine's step does not look at what the Host has pending. -/
theorem engineNext_withPending (l : List HostLine) (s : State) :
    engineNext (withPending l s) = withPending l (engineNext s) := by
  cases hon : engineOn s with
  | false => rw [engineNext_off hon]; exact engineNext_off (s := withPending l s) hon
  | true =>
    cases ht : (divider s.acc (d256 s)).1 with
    | false => rw [engineNext_noTick hon ht]; exact engineNext_noTick (s := withPending l s) hon ht
    | true =>
      rw [engineNext_tick hon ht, ← tickNext_withPending]
      exact engineNext_tick (s := withPending l s) hon ht

/-- Settles O29: both cycles are the Engine's step on the same state, with the read data driven after it. -/
theorem readsHaveNoSideEffects : Obligations.ReadsHaveNoSideEffects := by
  intro s w rest hw
  have hreadCycle : step (withPending (.cycle { rst := false, haw := some w } :: rest) s) = .next _ :=
    step_of_noWrite rfl fun v hv => Option.some.inj hv ▸ hw
  have hidleCycle : step (withPending (idleLine :: rest) s) = .next _ := step_of_noWrite rfl nofun
  rw [engineNext_withPending] at hreadCycle hidleCycle
  exact ⟨_, hreadCycle, hidleCycle⟩

/-! ### The queue over one cycle -/

/-- Out of reset, the queue is the byte the Engine takes and the queue it leaves (R93). -/
theorem poppedNow_append_engineNext {s : State} (hr : (busIn s).rst = false) :
    poppedNow s ++ (engineNext s).txq = s.txq := by
  have hpop : poppedNow s = s.txq.take (poppedNow s).length := by
    unfold poppedNow
    split
    · rw [List.length_take, ← List.take_eq_take_min]
    · rfl
  rw [engineNext_txq hr]
  exact (congrArg (· ++ _) hpop).trans (List.take_append_drop _ _)

/-- Out of reset, the accepted byte goes behind what the Engine left in the queue (R61, R90). -/
theorem step_txq {s t : State} (hr : (busIn s).rst = false) (h : step s = .next t) :
    t.txq = (engineNext s).txq ++ acceptedNow s := by
  rcases step_cases h with ⟨hrst, _⟩ | ⟨_, hn, rfl⟩ | ⟨w, _, hw, hb, rfl⟩ | ⟨w, _, hw, hb, rfl⟩
  · simp [hr] at hrst
  · simp [acceptedNow, pushedNow, hn, engineNext_beginCycle]
  · have hlen : qLevel (beginCycle (engineNext s)) = s.txq.length - (poppedNow s).length := by
      simp [qLevel, engineNext_txq hr]
    have hdepth : txqDepth (beginCycle (engineNext s)) = txqDepth s := txqDepth_congr (by simp)
    by_cases hreg : hawReg w = 0#5
    · simp [acceptedNow, pushedNow, hr, hw, hb, hreg, engineNext_beginCycle, write_txq, pushByte_txq, hlen, hdepth]
    · simp [acceptedNow, pushedNow, hr, hw, hb, hreg, engineNext_beginCycle, write_txq]
  · simp [acceptedNow, pushedNow, hw, hb, execNext_read, engineNext_respond, engineNext_beginCycle]

/-- The account of one cycle out of reset: what was queued and what comes in is what goes out and what stays (R61, R106). -/
theorem queue_account_step {s t : State} (hr : (busIn s).rst = false) (h : step s = .next t) :
    s.txq ++ acceptedNow s = poppedNow s ++ t.txq := by
  rw [step_txq hr h, ← List.append_assoc, poppedNow_append_engineNext hr]

/-! ### Runs without reset -/

/-- After a cycle the Host has pending what its read data leave of its lines (R80, R81). -/
theorem step_host {s t : State} (h : step s = .next t) : t.host = hostAfter s.host t.rdata := by
  rcases step_cases_engine_first h with ⟨_, rfl⟩ | ⟨_, v, rfl⟩ | ⟨w, _, hw, rfl⟩
  · simp
  · simp
  · simp [write_host hw]

/-- A cycle adds no line to what the Host has pending. -/
theorem hostAfter_subset (l : List HostLine) (v : Word) : hostAfter l v ⊆ l := by
  unfold hostAfter
  split
  · exact List.Subset.refl _
  · exact List.subset_cons_self _ _
  · split
    · exact List.subset_cons_self _ _
    · exact List.Subset.refl _

/-- With no reset pending, this cycle has none. -/
theorem State.noReset.busIn_rst {s : State} (h : s.noReset) : (busIn s).rst = false := by
  unfold busIn
  split
  case h_2 b rest hl => simpa [HostLine.noReset] using h (.cycle b) (by simp [hl])
  all_goals rfl

/-- With no reset pending, none is pending after the cycle. -/
theorem State.noReset.step {s t : State} (h : s.noReset) (hstep : step s = .next t) : t.noReset := by
  intro l hl
  rw [step_host hstep] at hl
  exact h l (hostAfter_subset _ _ hl)

theorem acceptedTrace_succ {s t : State} (h : step s = .next t) (n : Nat) :
    acceptedTrace (n + 1) s = acceptedNow s ++ acceptedTrace n t := by
  simp [acceptedTrace, traceOf_succ _ h]

theorem poppedTrace_succ {s t : State} (h : step s = .next t) (n : Nat) :
    poppedTrace (n + 1) s = poppedNow s ++ poppedTrace n t := by
  simp [poppedTrace, traceOf_succ _ h]

/-- Settles O57, by induction on the cycles: each keeps the account of the queue. -/
theorem acceptedBytesAreTakenOnceInOrder : Obligations.AcceptedBytesAreTakenOnceInOrder := by
  intro n
  induction n with
  | zero =>
    intro s t _ h
    cases h
    simp [acceptedTrace, poppedTrace]
  | succ n ih =>
    intro s t hnr h
    obtain ⟨u, hu, hrun⟩ := andThen_eq_next h
    rw [acceptedTrace_succ hu, poppedTrace_succ hu]
    calc s.txq ++ (acceptedNow s ++ acceptedTrace n u)
      _ = poppedNow s ++ (u.txq ++ acceptedTrace n u) := by
          rw [← List.append_assoc, queue_account_step hnr.busIn_rst hu, List.append_assoc]
      _ = poppedNow s ++ poppedTrace n u ++ t.txq := by rw [ih u t (hnr.step hu) hrun, List.append_assoc]

end Sys2Proof.Machine
end

section
/-! SUPPORT. The two formats as bytes (R70 to R73, R76, R78): the decoder reads back what the encoder writes, and nothing else. -/

namespace Sys2Proof.Machine

/-! ### The bytes of a table word -/

/-- The five bytes of a HAW, the most significant first, are the HAW. -/
theorem haw_bytes (w : Haw) :
    w.extractLsb' 32 8 ++ w.extractLsb' 24 8 ++ w.extractLsb' 16 8 ++ w.extractLsb' 8 8 ++ w.extractLsb' 0 8 = w := by
  apply BitVec.eq_of_toNat_eq
  refine (toNat_append_add (w.extractLsb' 32 8 ++ w.extractLsb' 24 8 ++ w.extractLsb' 16 8 ++ w.extractLsb' 8 8) _).trans ?_
  rw [toNat_append_add, toNat_append_add, toNat_append_add]
  simp only [BitVec.extractLsb'_toNat, Nat.shiftRight_eq_div_pow]
  omega

/-- Five bytes are the bytes of the HAW that they make. -/
theorem bytesOfTable_append (b0 b1 b2 b3 b4 : Byte) :
    bytesOfTable (.haw (b4 ++ b3 ++ b2 ++ b1 ++ b0)) = [b0, b1, b2, b3, b4] := by
  have hnat : (b4 ++ b3 ++ b2 ++ b1 ++ b0).toNat =
      (((b4.toNat * 2 ^ 8 + b3.toNat) * 2 ^ 8 + b2.toNat) * 2 ^ 8 + b1.toNat) * 2 ^ 8 + b0.toNat := by
    simp only [toNat_append_add]
  simp only [bytesOfTable, List.cons.injEq, and_true, ← BitVec.toNat_inj, BitVec.extractLsb'_toNat,
    Nat.shiftRight_eq_div_pow]
  refine ⟨?_, ?_, ?_, ?_, ?_⟩ <;> rw [hnat] <;> omega

/-- The byte decoder reads the bytes of a table word as that word. -/
theorem decode_bytesOfTable (w : TableWord) : decode (bytesOfTable w) = .ok (decodeTable w) := by
  cases w with
  | haw w => exact congrArg (fun v => Except.ok (decodeHaw v)) (haw_bytes w)
  | phase p => revert p; decide

/-- A byte with a zero upper half is the byte of the phase code in its lower half (R78). -/
theorem bytesOfTable_phase {b : Byte} (h : b.extractLsb' 4 4 = 0#4) : bytesOfTable (.phase (b.extractLsb' 0 4)) = [b] := by
  simp only [bytesOfTable, List.cons.injEq, and_true]
  simp only [← BitVec.toNat_inj, BitVec.extractLsb'_toNat, BitVec.toNat_setWidth, BitVec.toNat_ofNat,
    Nat.shiftRight_eq_div_pow] at h ⊢
  omega

/-- The byte decoder reads only the bytes of table words. -/
theorem decode_eq_ok {bs : List Byte} {i : Instr} (h : decode bs = .ok i) :
    ∃ w, bytesOfTable w = bs ∧ decodeTable w = i := by
  unfold decode at h
  split at h
  case h_1 b =>
    split at h
    case isTrue hb => exact ⟨_, bytesOfTable_phase hb, Except.ok.inj h⟩
    case isFalse => cases h
  case h_2 b0 b1 b2 b3 b4 => exact ⟨_, bytesOfTable_append b0 b1 b2 b3 b4, Except.ok.inj h⟩
  case h_3 => cases h

/-! ### The table words of the instructions -/

/-- The table decoder reads back the word of every well-formed instruction. -/
theorem decodeTable_encode : ∀ i : Instr, i.wf = true → decodeTable (encode i) = i
  | .push .., h => Laws.RoundTrip.push _ _ _ h
  | .rdTxdata .., h => Laws.RoundTrip.rdTxdata _ _ h
  | .rdStatus .., h => Laws.RoundTrip.rdStatus _ _ h
  | .wrStatus .., h => Laws.RoundTrip.wrStatus _ _ _ _ h
  | .rdClkdiv .., h => Laws.RoundTrip.rdClkdiv _ _ h
  | .wrClkdiv .., h => Laws.RoundTrip.wrClkdiv _ _ _ _ h
  | .rdCmd .., h => Laws.RoundTrip.rdCmd _ _ h
  | .cmdNop .., h => Laws.RoundTrip.cmdNop _ _ h
  | .cmdEnable .., h => Laws.RoundTrip.cmdEnable _ _ h
  | .cmdRestart .., h => Laws.RoundTrip.cmdRestart _ _ h
  | .cmdReserved3 .., h => Laws.RoundTrip.cmdReserved3 _ _ h
  | .cmdReserved4_7 .., h => Laws.RoundTrip.cmdReserved4_7 _ _ _ h
  | .cmdReserved8_15 .., h => Laws.RoundTrip.cmdReserved8_15 _ _ _ h
  | .rdParam .., h => Laws.RoundTrip.rdParam _ _ h
  | .wrParam .., h => Laws.RoundTrip.wrParam _ _ h
  | .rdRsvd5 .., h => Laws.RoundTrip.rdRsvd5 _ _ h
  | .rdRsvd6_7 .., h => Laws.RoundTrip.rdRsvd6_7 _ _ _ h
  | .rdRsvd8_15 .., h => Laws.RoundTrip.rdRsvd8_15 _ _ _ h
  | .rdRsvd16_31 .., h => Laws.RoundTrip.rdRsvd16_31 _ _ _ h
  | .wrRsvd5 .., h => Laws.RoundTrip.wrRsvd5 _ _ h
  | .wrRsvd6_7 .., h => Laws.RoundTrip.wrRsvd6_7 _ _ _ h
  | .wrRsvd8_15 .., h => Laws.RoundTrip.wrRsvd8_15 _ _ _ h
  | .wrRsvd16_31 .., h => Laws.RoundTrip.wrRsvd16_31 _ _ _ h
  | .tpIdle, h => Laws.RoundTrip.tpIdle h
  | .tpBreak, h => Laws.RoundTrip.tpBreak h
  | .tpMab, h => Laws.RoundTrip.tpMab h
  | .tpStart, h => Laws.RoundTrip.tpStart h
  | .tpData, h => Laws.RoundTrip.tpData h
  | .tpStop1, h => Laws.RoundTrip.tpStop1 h
  | .tpStop2, h => Laws.RoundTrip.tpStop2 h
  | .tpReserved7, h => Laws.RoundTrip.tpReserved7 h
  | .tpReserved8_15 _, h => Laws.RoundTrip.tpReserved8_15 _ h

/-- The encoder writes back every table word. -/
theorem encode_decodeTable (w : TableWord) : encode (decodeTable w) = w := by
  cases w with
  | haw w => exact encode_decodeHaw w
  | phase p => revert p; decide

/-- A word index is one of the six named ones, or reserved in one of three ranges (R32, R73). -/
theorem wordIndex_cases : ∀ reg : BitVec 5,
    reg ∈ [0#5, 1#5, 2#5, 3#5, 4#5, 5#5] ∨ (6 ≤ reg.toNat ∧ reg.toNat ≤ 7) ∨ (8 ≤ reg.toNat ∧ reg.toNat ≤ 15) ∨
      16 ≤ reg.toNat := by
  decide

theorem wf_decodeRead (reg : BitVec 5) (aa : BitVec 2) (data : Word) : (decodeRead reg aa data).wf = true := by
  rcases wordIndex_cases reg with h | h | h | h
  · fin_cases h <;> rfl
  · rw [Laws.RoundTrip.decodeRead_rsvd6_7 h]; exact decide_eq_true h
  · rw [Laws.RoundTrip.decodeRead_rsvd8_15 h]; exact decide_eq_true h
  · rw [Laws.RoundTrip.decodeRead_rsvd16_31 h]; exact decide_eq_true h

/-- A command code is one of the four named ones, or reserved in one of two ranges (R35, R73). -/
theorem commandCode_cases : ∀ code : BitVec 4,
    code ∈ [0#4, 1#4, 2#4, 3#4] ∨ (4 ≤ code.toNat ∧ code.toNat ≤ 7) ∨ 8 ≤ code.toNat := by
  decide

theorem wf_decodeCommand (aa : BitVec 2) (data : Word) : (decodeCommand aa data).wf = true := by
  rw [decodeCommand]
  generalize opCode data = code
  rcases commandCode_cases code with h | h | h
  · fin_cases h <;> rfl
  · iterate 4 rw [if_neg (Laws.RoundTrip.ne_of_toNat_ne (by simp only [BitVec.toNat_ofNat]; omega))]
    rw [if_pos h.2]
    exact decide_eq_true h
  · iterate 4 rw [if_neg (Laws.RoundTrip.ne_of_toNat_ne (by simp only [BitVec.toNat_ofNat]; omega))]
    rw [if_neg (by omega)]
    exact decide_eq_true h

theorem wf_decodeWrite (reg : BitVec 5) (aa : BitVec 2) (data : Word) : (decodeWrite reg aa data).wf = true := by
  rcases wordIndex_cases reg with h | h | h | h
  · fin_cases h
    exacts [rfl, rfl, rfl, wf_decodeCommand aa data, rfl, rfl]
  · rw [Laws.RoundTrip.decodeWrite_rsvd6_7 h]; exact decide_eq_true h
  · rw [Laws.RoundTrip.decodeWrite_rsvd8_15 h]; exact decide_eq_true h
  · rw [Laws.RoundTrip.decodeWrite_rsvd16_31 h]; exact decide_eq_true h

theorem wf_decodeTable (w : TableWord) : (decodeTable w).wf = true := by
  cases w with
  | haw w =>
    change (decodeHaw w).wf = true
    cases h : hawWr w
    · rw [decodeHaw_of_read h, wf_decodeRead]
    · rw [decodeHaw_of_write h, wf_decodeWrite]
  | phase p => revert p; decide

/-! ### Words written out, and the round trip -/

/-- Settles O1: each word is written out, so the decoder reads it by evaluation. -/
theorem specWordsDecode : Obligations.SpecWordsDecode :=
  ⟨rfl, rfl, rfl, rfl, rfl, rfl, rfl, rfl, rfl, rfl, rfl, rfl⟩

/-- Settles O2: the bytes of a word decode as the word, and the word of a well-formed instruction as that instruction. -/
theorem decodeOfEncode : Obligations.DecodeOfEncode := by
  intro i hi
  rw [decode_bytesOfTable, decodeTable_encode i hi]

/-- Settles O3: only the bytes of a table word decode, and the encoder writes back every table word. -/
theorem encodeOfDecode : Obligations.EncodeOfDecode := by
  intro bs i h
  obtain ⟨w, rfl, rfl⟩ := decode_eq_ok h
  exact ⟨wf_decodeTable w, by rw [encode_decodeTable]⟩

end Sys2Proof.Machine
end

section
/-! SUPPORT. The rows of the decoder table against the decoder (R73, R74): which rows match a HAW is decided by WR and REG, and for a
write to CMD by CODE; so is the row of the instruction. -/

namespace Sys2Proof.Machine

/-! ### The bits that the rows test -/

/-- The mnemonics of the rows that match a HAW, in the order of the table. -/
def matchingNames (rows : List HawRow) (w : Haw) : List String := (rows.filter (·.matches w)).map (·.mnemonic)

theorem matchingNames_append (rows rows' : List HawRow) (w : Haw) :
    matchingNames (rows ++ rows') w = matchingNames rows w ++ matchingNames rows' w := by
  simp [matchingNames]

/-- Rows whose masks lie within `k` match a HAW by its bits within `k`. -/
theorem matchingNames_and {rows : List HawRow} {k : Haw} (hk : ∀ r ∈ rows, k &&& r.mask = r.mask) (w : Haw) :
    matchingNames rows (w &&& k) = matchingNames rows w := by
  have hfilter : rows.filter (·.matches (w &&& k)) = rows.filter (·.matches w) :=
    List.filter_congr fun r hr => by rw [HawRow.matches, HawRow.matches, BitVec.and_assoc, hk r hr]
  rw [matchingNames, hfilter, matchingNames]

/-- Rows that all ask for `p` in the bits within `k` match no HAW that has something else there. -/
theorem matchingNames_eq_nil {rows : List HawRow} {k p w : Haw} (hk : ∀ r ∈ rows, r.mask &&& k = k ∧ r.pat &&& k = p)
    (h : w &&& k ≠ p) : matchingNames rows w = [] := by
  have hfilter : rows.filter (·.matches w) = [] := by
    refine List.filter_eq_nil_iff.mpr fun r hr hm => h ?_
    obtain ⟨hmask, hpat⟩ := hk r hr
    rw [← hpat, ← beq_iff_eq.mp hm, BitVec.and_assoc, hmask]
  rw [matchingNames, hfilter, List.map_nil]

/-- Keeping `WR`, `REG` and some bits of DATA. -/
theorem mkHaw_and (wr : Bool) (reg : BitVec 5) (aa : BitVec 2) (data mask : Word) :
    mkHaw wr reg aa data &&& mkHaw true 31#5 0#2 mask = mkHaw wr reg 0#2 (data &&& mask) := by
  have hwr : BitVec.ofBool wr &&& BitVec.ofBool true = BitVec.ofBool wr := BitVec.and_allOnes
  have hreg : reg &&& 31#5 = reg := BitVec.and_allOnes
  refine BitVec.and_append.trans ?_
  rw [BitVec.and_append, BitVec.and_append, hwr, hreg, BitVec.and_zero, mkHaw]

/-- The bits of `WR` and `REG`. -/
def offsetBits : Haw := mkHaw true 31#5 0#2 0#32

/-- The bits of `WR`, `REG` and `CODE`. -/
def commandBits : Haw := mkHaw true 31#5 0#2 15#32

theorem mkHaw_offsetBits (wr : Bool) (reg : BitVec 5) (aa : BitVec 2) (data : Word) :
    mkHaw wr reg aa data &&& offsetBits = mkHaw wr reg 0#2 0#32 := by
  rw [offsetBits, mkHaw_and, BitVec.and_zero]

theorem mkHaw_commandBits (wr : Bool) (reg : BitVec 5) (aa : BitVec 2) (data : Word) :
    mkHaw wr reg aa data &&& commandBits = mkHaw wr reg 0#2 (0#28 ++ opCode data) := by
  have hcode : opCode data &&& 15#4 = opCode data := BitVec.and_allOnes
  rw [commandBits, mkHaw_and]
  calc mkHaw wr reg 0#2 (data &&& 15#32)
    _ = mkHaw wr reg 0#2 ((opAboveCode data ++ opCode data) &&& (0#28 ++ 15#4)) := by rw [code_fields]; rfl
    _ = mkHaw wr reg 0#2 (0#28 ++ opCode data) := by rw [BitVec.and_append, BitVec.and_zero, hcode]

/-! ### The row of the instruction -/

/-- The word index alone decides the row of a read. -/
theorem decodeRead_mnemonic (reg : BitVec 5) (aa : BitVec 2) (data : Word) :
    (decodeRead reg aa data).mnemonic = (decodeRead reg 0#2 0#32).mnemonic := by
  unfold decodeRead
  split_ifs <;> rfl

/-- The word index alone decides the row of a write to another register than CMD. -/
theorem decodeWrite_mnemonic {reg : BitVec 5} (h : reg ≠ 3#5) (aa : BitVec 2) (data : Word) :
    (decodeWrite reg aa data).mnemonic = (decodeWrite reg 0#2 0#32).mnemonic := by
  unfold decodeWrite
  rw [if_neg h, if_neg h]
  split_ifs <;> rfl

/-- The code alone decides the row of a command. -/
theorem decodeCommand_mnemonic (aa : BitVec 2) (data : Word) :
    (decodeCommand aa data).mnemonic = (decodeCommand 0#2 (0#28 ++ opCode data)).mnemonic := by
  unfold decodeCommand
  rw [opCode_append]
  split_ifs <;> rfl

/-- Outside the writes to CMD, the offset decides the row of the instruction. -/
theorem decodeHaw_mnemonic_offset {wr : Bool} {reg : BitVec 5} (h : ¬ (wr = true ∧ reg = 3#5)) (aa : BitVec 2) (data : Word) :
    (decodeHaw (mkHaw wr reg aa data)).mnemonic = (decodeHaw (mkHaw wr reg 0#2 0#32)).mnemonic := by
  cases wr with
  | false => simpa [decodeHaw] using decodeRead_mnemonic reg aa data
  | true => simpa [decodeHaw] using decodeWrite_mnemonic (fun hreg => h ⟨rfl, hreg⟩) aa data

/-- Of a write to CMD, the code decides the row of the instruction. -/
theorem decodeHaw_mnemonic_command (aa : BitVec 2) (data : Word) :
    (decodeHaw (mkHaw true 3#5 aa data)).mnemonic = (decodeHaw (mkHaw true 3#5 0#2 (0#28 ++ opCode data))).mnemonic := by
  have hdecode : ∀ aa data, decodeHaw (mkHaw true 3#5 aa data) = decodeCommand aa data := Laws.RoundTrip.command_back
  rw [hdecode, hdecode, decodeCommand_mnemonic]

/-! ### The one row -/

/-- Outside the writes to CMD, one row matches by the offset, and none of CMD's. -/
theorem matchingNames_of_offset {wr : Bool} {reg : BitVec 5} (h : ¬ (wr = true ∧ reg = 3#5)) (aa : BitVec 2) (data : Word) :
    matchingNames hawRows (mkHaw wr reg aa data) = [(decodeHaw (mkHaw wr reg aa data)).mnemonic] := by
  have hoffset : ∀ wr, ∀ reg : BitVec 5, ¬ (wr = true ∧ reg = 3#5) →
      matchingNames (hawReadRows ++ hawWriteRows) (mkHaw wr reg 0#2 0#32) = [(decodeHaw (mkHaw wr reg 0#2 0#32)).mnemonic] := by
    decide
  have hcommand : matchingNames hawCommandRows (mkHaw wr reg aa data) = [] := by
    refine matchingNames_eq_nil (k := offsetBits) (p := mkHaw true 3#5 0#2 0#32) (by decide) fun he => h ?_
    rw [mkHaw_offsetBits] at he
    exact ⟨by simpa using congrArg hawWr he, by simpa using congrArg hawReg he⟩
  rw [hawRows, matchingNames_append, hcommand, List.append_nil, ← matchingNames_and (k := offsetBits) (by decide),
    mkHaw_offsetBits, hoffset wr reg h, decodeHaw_mnemonic_offset h aa data]

/-- Of the writes to CMD, one row matches by the code. -/
theorem matchingNames_of_command (aa : BitVec 2) (data : Word) :
    matchingNames hawRows (mkHaw true 3#5 aa data) = [(decodeHaw (mkHaw true 3#5 aa data)).mnemonic] := by
  have hcode : ∀ code : BitVec 4, matchingNames hawRows (mkHaw true 3#5 0#2 (0#28 ++ code)) =
      [(decodeHaw (mkHaw true 3#5 0#2 (0#28 ++ code))).mnemonic] := by
    decide
  rw [← matchingNames_and (k := commandBits) (by decide), mkHaw_commandBits, hcode, ← decodeHaw_mnemonic_command]

/-- Settles O4: the write to CMD, where the code decides, and every other access, where the offset does. -/
theorem eachHawMatchesExactlyOneRow : Obligations.EachHawMatchesExactlyOneRow := by
  intro w
  apply List.map_eq_singleton_iff.mp
  change matchingNames hawRows w = _
  rw [← mkHaw_fields w]
  by_cases h : hawWr w = true ∧ hawReg w = 3#5
  · rw [h.1, h.2]
    exact matchingNames_of_command _ _
  · exact matchingNames_of_offset h _ _

end Sys2Proof.Machine
end

section
/-! SUPPORT. The lines of the assembly (R79, R80): the instruction that an access line presents, and what a polling loop waits for. -/

namespace Sys2Proof.Machine

/-! ### The access lines -/

/-- A write line presents the HAW of the instruction that has its register and value as fields. -/
theorem wrLine_decodes {i : Instr} {r : RegName} {v data : Word} (hwf : i.wf = true) (hv : v = data)
    (h : encode i = .haw (mkHaw true (r.offset.extractLsb' 2 5) (r.offset.extractLsb' 0 2) data)) :
    ∃ w, [wrLine r v] = [.cycle { rst := false, haw := some w }] ∧ decodeHaw w = i :=
  ⟨_, rfl, by simpa [h, hv, decodeTable] using decodeTable_encode i hwf⟩

/-- The DATA of a PUSH line. -/
theorem push_data (b : Byte) : b.zeroExtend 32 = 0#24 ++ b := by
  simpa using BitVec.setWidth_eq_append (x := b) (w := 32) (by decide)

/-- The DATA of a divisor line. -/
theorem setdiv_data (i : BitVec 16) (f : BitVec 8) : i.zeroExtend 32 <<< 16 ||| f.zeroExtend 32 <<< 8 = i ++ f ++ 0#8 := by
  have := BitVec.setWidth_append_append_eq_shiftLeft_setWidth_or (w''' := 32) (b := i) (b' := f) (b'' := 0#8)
  simpa using this.symm

/-- The DATA of an error clearing line. -/
theorem clrerr_data (m : BitVec 4) : m.zeroExtend 32 <<< 16 = 0#12 ++ m ++ 0#16 := by
  have := BitVec.setWidth_append_append_eq_shiftLeft_setWidth_or (w''' := 32) (b := 0#12) (b' := m) (b'' := 0#16)
  simpa using this.symm

/-- Settles O5: each access line presents the fields of its instruction; the last two clauses unfold the assembler. -/
theorem pseudoInstructionsAssemble : Obligations.PseudoInstructionsAssemble :=
  ⟨fun b => wrLine_decodes rfl (push_data b) rfl,
    wrLine_decodes rfl rfl rfl,
    wrLine_decodes rfl rfl rfl,
    wrLine_decodes rfl rfl rfl,
    fun i f => wrLine_decodes rfl (setdiv_data i f) rfl,
    fun m => wrLine_decodes rfl (clrerr_data m) rfl,
    fun _ => rfl,
    fun _ => rfl⟩

/-! ### The polling loops -/

theorem statusWord_getLsbD_txqFull (s : State) : (statusWord s).getLsbD 1 = txqFull s := by
  apply getLsbD_of_toNat
  have := (txqFull s).toNat_lt
  have := s.running.toNat_lt
  rw [statusWord_toNat]
  omega

theorem statusWord_getLsbD_txqEmpty (s : State) : (statusWord s).getLsbD 2 = txqEmpty s := by
  apply getLsbD_of_toNat
  have := (txqEmpty s).toNat_lt
  have := (txqFull s).toNat_lt
  have := s.running.toNat_lt
  rw [statusWord_toNat]
  omega

theorem statusWord_getLsbD_serBusy (s : State) : (statusWord s).getLsbD 3 = serBusy s := by
  apply getLsbD_of_toNat
  have := (serBusy s).toNat_lt
  have := (txqEmpty s).toNat_lt
  have := (txqFull s).toNat_lt
  have := s.running.toNat_lt
  rw [statusWord_toNat]
  omega

/-- A polling loop presents a read of STATUS (R80). -/
theorem busRdata_poll {s : State} {c : WaitCond} {rest : List HostLine} (h : s.host = .poll c :: rest) :
    busRdata s = statusWord s := by
  have hbus : busIn s = { rst := false, haw := some 0x0400000000#40 } := by rw [busIn, h]
  rw [busRdata, hbus]
  rfl

/-- Settles O31: the read data are STATUS at the start of the cycle, and the loop's condition is about three bits of it. -/
theorem pollingLoopReadsStatusUntilMet : Obligations.PollingLoopReadsStatusUntilMet := by
  intro s t c rest hs hstep
  have hdata : t.rdata = statusWord s := (readDataIsOfTheCycleStart s t hstep).trans (busRdata_poll hs)
  refine ⟨hdata, ?_⟩
  rw [step_host hstep, hdata, hs, hostAfter]
  cases c with
  | notFull => rw [WaitCond.met, statusWord_getLsbD_txqFull]
  | empty => rw [WaitCond.met, statusWord_getLsbD_txqEmpty]
  | done => rw [WaitCond.met, statusWord_getLsbD_txqEmpty, statusWord_getLsbD_serBusy]

end Sys2Proof.Machine
end

section
/-! SUPPORT. The wire in ticks (R82, R83, R103, R104, R106): the levels that a stretch of tick intervals carries, put together from a
countdown, a character and a dispatch. -/

namespace Sys2Proof.Machine

/-! ### Stretches of tick intervals -/

/-- From `s`, one tick interval per level of `levels`, each with a tick at its end, lead to `t`. -/
inductive Carries : State → List Bool → State → Prop
  | nil (s : State) : Carries s [] s
  | tick {s t : State} {v : Bool} {levels : List Bool} (hline : lineOf s = some v) (hrest : Carries (tickNext s) levels t) :
      Carries s (v :: levels) t

/-- A stretch from its first tick interval, with the state after the tick named. -/
theorem Carries.cons {s u t : State} {v : Bool} {levels : List Bool} (hline : lineOf s = some v) (htick : tickNext s = u)
    (hrest : Carries u levels t) : Carries s (v :: levels) t :=
  .tick hline (htick ▸ hrest)

/-- Two stretches in a row. -/
theorem Carries.append {s u t : State} {l m : List Bool} (h : Carries s l u) (h' : Carries u m t) : Carries s (l ++ m) t := by
  induction h with
  | nil => exact h'
  | tick hline _ ih => exact .tick hline (ih h')

/-- The levels of a stretch are the trace of its tick intervals. -/
theorem Carries.lineTrace_eq {s t : State} {l : List Bool} (h : Carries s l t) : lineTrace l.length s = l.map some := by
  induction h with
  | nil => rfl
  | tick hline _ ih => rw [List.length_cons, lineTrace_succ, hline, ih, List.map_cons]

/-- The end of a stretch is what the run of its ticks reaches. -/
theorem Carries.tickRun_eq {s t : State} {l : List Bool} (h : Carries s l t) : tickRun l.length s = .next t := by
  induction h with
  | nil => rfl
  | tick _ _ ih => rw [List.length_cons, tickRun_succ, ih]

/-! ### The level of each phase (R91) -/

theorem lineOf_idle {s : State} (h : s.phase = phIdle) : lineOf s = some true := by rw [lineOf, h]; rfl
theorem lineOf_break {s : State} (h : s.phase = phBreak) : lineOf s = some false := by rw [lineOf, h]; rfl
theorem lineOf_mab {s : State} (h : s.phase = phMab) : lineOf s = some true := by rw [lineOf, h]; rfl
theorem lineOf_start {s : State} (h : s.phase = phStart) : lineOf s = some false := by rw [lineOf, h]; rfl
theorem lineOf_stop1 {s : State} (h : s.phase = phStop1) : lineOf s = some true := by rw [lineOf, h]; rfl
theorem lineOf_stop2 {s : State} (h : s.phase = phStop2) : lineOf s = some true := by rw [lineOf, h]; rfl
theorem lineOf_data {s : State} (h : s.phase = phData) {k : Nat} (hc : s.cnt = BitVec.ofNat 8 k) (hk : k ≤ 7) :
    lineOf s = some (s.shift.getLsbD k) := by
  have hbit : (s.cnt.extractLsb' 0 3).toNat = k := by
    rw [hc, BitVec.extractLsb'_toNat, Nat.shiftRight_zero, BitVec.toNat_ofNat]
    omega
  rw [← hbit, lineOf, h]
  rfl

/-! ### The countdown of a break and of a mark-after-break -/

/-- A phase that counts CNT down at one level carries that level for CNT tick intervals. -/
theorem carries_countDown {s : State} {v : Bool} (hline : ∀ c, lineOf { s with cnt := c } = some v)
    (htick : ∀ c, c ≠ 0#8 → tickNext { s with cnt := c } = { s with cnt := c - 1#8 }) (n : Nat) (hn : n < 256) :
    Carries { s with cnt := BitVec.ofNat 8 n } (List.replicate n v) { s with cnt := 0#8 } := by
  induction n with
  | zero => exact .nil _
  | succ n ih =>
    have hne : BitVec.ofNat 8 (n + 1) ≠ 0#8 := Laws.RoundTrip.ne_of_toNat_ne (by simp only [BitVec.toNat_ofNat]; omega)
    have hdec : BitVec.ofNat 8 (n + 1) - 1#8 = BitVec.ofNat 8 n := by
      apply BitVec.eq_of_toNat_eq
      simp only [BitVec.toNat_sub, BitVec.toNat_ofNat]
      omega
    exact .cons (hline _) (htick _ hne) (hdec ▸ ih (by omega))

/-- A BREAK carries `CNT + 1` tick intervals of 0 and reaches the first of MAB (R95). -/
theorem carries_break {s : State} (h : s.phase = phBreak) :
    Carries s (List.replicate (s.cnt.toNat + 1) false) { s with phase := phMab, cnt := 7#8 } := by
  have hline : ∀ c, lineOf { s with cnt := c } = some false := fun c => lineOf_break (s := { s with cnt := c }) h
  have hcount := carries_countDown hline (fun c hc => (tickNext_break (s := { s with cnt := c }) h).trans (if_neg hc))
    s.cnt.toNat s.cnt.isLt
  rw [BitVec.ofNat_toNat, BitVec.setWidth_eq] at hcount
  rw [List.replicate_succ']
  exact hcount.append (.cons (hline _) ((tickNext_break (s := { s with cnt := 0#8 }) h).trans (if_pos rfl)) (.nil _))

/-- A MAB carries 1 for CNT tick intervals and reaches its last (R96). -/
theorem carries_mab {s : State} (h : s.phase = phMab) :
    Carries s (List.replicate s.cnt.toNat true) { s with cnt := 0#8 } := by
  have hline : ∀ c, lineOf { s with cnt := c } = some true := fun c => lineOf_mab (s := { s with cnt := c }) h
  have hcount := carries_countDown hline (fun c hc => (tickNext_mab (s := { s with cnt := c }) h).trans (if_neg hc))
    s.cnt.toNat s.cnt.isLt
  rwa [BitVec.ofNat_toNat, BitVec.setWidth_eq] at hcount

/-- The last tick interval of MAB is at 1 and ends with a dispatch (R91, R96). -/
theorem carries_mab_last {s : State} (h : s.phase = phMab) (hc : s.cnt = 0#8) : Carries s [true] (dispatch s) :=
  .cons (lineOf_mab h) ((tickNext_mab h).trans (if_pos hc)) (.nil _)

/-- A break from its first tick interval on, up to the last of its MAB (R83). -/
theorem carries_breakAndMab {s : State} (h : s.phase = phBreak) (hc : s.cnt = 87#8) :
    Carries s (List.replicate 88 false ++ List.replicate 7 true) { s with phase := phMab, cnt := 0#8 } := by
  have hbreak := carries_break h
  rw [hc] at hbreak
  exact hbreak.append (carries_mab (s := { s with phase := phMab, cnt := 7#8 }) rfl)

/-! ### A character -/

/-- The levels of a character up to its first stop bit. -/
def characterToStop1 (b : Byte) : List Bool := false :: ((List.range 8).map b.getLsbD ++ [true])

theorem character_eq (b : Byte) : character b = characterToStop1 b ++ [true] := rfl

/-- DATA carries the bits of SHIFT from bit CNT to bit 7 and reaches STOP1 (R91, R98). -/
theorem carries_data {s : State} (h : s.phase = phData) {k n : Nat} (hc : s.cnt = BitVec.ofNat 8 k) (hk : k + n = 7) :
    Carries s ((List.range' k (n + 1)).map s.shift.getLsbD) { s with phase := phStop1, cnt := 7#8 } := by
  induction n generalizing s k with
  | zero =>
    obtain rfl : k = 7 := hk
    have hstop : tickNext s = { s with phase := phStop1, cnt := 7#8 } := by rw [tickNext_data h, if_pos hc, ← hc]
    exact .cons (lineOf_data h hc (by omega)) hstop (.nil _)
  | succ n ih =>
    have hne : s.cnt ≠ 7#8 := hc ▸ Laws.RoundTrip.ne_of_toNat_ne (by simp only [BitVec.toNat_ofNat]; omega)
    have hnext : s.cnt + 1#8 = BitVec.ofNat 8 (k + 1) := by rw [hc, BitVec.ofNat_add]
    exact .cons (lineOf_data h hc (by omega)) ((tickNext_data h).trans (if_neg hne))
      (ih (s := { s with cnt := s.cnt + 1#8 }) h hnext (by omega))

/-- From START, ten ticks carry the character up to its first stop bit and reach STOP2 (R97 to R99). -/
theorem carries_characterToStop1 {s : State} (h : s.phase = phStart) :
    Carries s (characterToStop1 s.shift) { s with phase := phStop2, cnt := 7#8 } := by
  have hdata := carries_data (s := { s with phase := phData, cnt := 0#8 }) rfl (k := 0) (n := 7) rfl rfl
  refine .cons (lineOf_start h) (tickNext_start h) (hdata.append ?_)
  exact .cons (lineOf_stop1 rfl) (tickNext_stop1 rfl) (.nil _)

/-- A character from its START to the dispatch that ends it (R82, R100). -/
theorem carries_character {s : State} (h : s.phase = phStart) :
    Carries s (character s.shift) (dispatch { s with phase := phStop2, cnt := 7#8 }) := by
  rw [character_eq]
  exact (carries_characterToStop1 h).append (.cons (lineOf_stop2 rfl) (tickNext_stop2 rfl) (.nil _))

/-- Settles O51: the character is a stretch of eleven levels, of which the first ten end in STOP2. -/
theorem characterInElevenTicks : Obligations.CharacterInElevenTicks := by
  intro s h
  exact ⟨(carries_character h).lineTrace_eq, _, (carries_characterToStop1 h).tickRun_eq, rfl, rfl, rfl, rfl⟩

/-- Settles O52: the break and its MAB are a stretch of 96 levels, of which the first 95 end in the last tick interval of MAB. -/
theorem breakAndMabInNinetySixTicks : Obligations.BreakAndMabInNinetySixTicks := by
  intro s h hc
  have hlast := (carries_breakAndMab h hc).append (carries_mab_last rfl rfl)
  exact ⟨hlast.lineTrace_eq, _, (carries_breakAndMab h hc).tickRun_eq, rfl, rfl, rfl, rfl, rfl⟩

/-! ### A frame -/

/-- With no restart pending, a dispatch sends the queued characters back to back and then rests in IDLE (R93, R106). -/
theorem carries_queue {s : State} (h : s.rpend = false) :
    ∃ t, Carries (dispatch s) (s.txq.flatMap character) t ∧ t.phase = phIdle ∧ t.txq = [] ∧ t.rpend = false := by
  generalize hq : s.txq = q
  induction q generalizing s with
  | nil =>
    rw [dispatch_nil h hq]
    exact ⟨_, .nil _, rfl, hq, h⟩
  | cons b rest ih =>
    have hstart := carries_character (s := { s with shift := b, txq := rest, phase := phStart }) rfl
    obtain ⟨t, ht, hend⟩ := ih (s := { s with shift := b, txq := rest, phase := phStop2, cnt := 7#8 }) h rfl
    rw [dispatch_cons h hq, List.flatMap_cons]
    exact ⟨t, hstart.append ht, hend⟩

/-- A queued frame: one idle interval, the break with its MAB, and the characters (R83, R106). -/
theorem carries_frame {s : State} (h : s.phase = phIdle) (hr : s.rpend = true) :
    ∃ t, Carries s (true :: (breakAndMab ++ s.txq.flatMap character)) t ∧ t.phase = phIdle ∧ t.txq = [] ∧
      t.rpend = false := by
  have hidle : tickNext s = { s with phase := phBreak, cnt := 87#8, rpend := false } :=
    (tickNext_idle h).trans (dispatch_rpend hr)
  have hbreak := carries_breakAndMab (s := { s with phase := phBreak, cnt := 87#8, rpend := false }) rfl rfl
  obtain ⟨t, ht, hend⟩ := carries_queue (s := { s with phase := phMab, cnt := 0#8, rpend := false }) rfl
  exact ⟨t, .cons (lineOf_idle h) hidle ((hbreak.append (carries_mab_last rfl rfl)).append ht), hend⟩

theorem frame_length (q : List Byte) : (true :: (breakAndMab ++ q.flatMap character)).length = 1 + 96 + 11 * q.length := by
  have hchar : ∀ b, (character b).length = 11 := fun _ => rfl
  have hbreak : breakAndMab.length = 96 := rfl
  simp only [List.length_cons, List.length_append, List.length_flatMap, hchar, hbreak, List.map_const',
    List.sum_replicate, smul_eq_mul]
  omega

/-- Settles O53: the frame is a stretch of `1 + 96` levels and eleven for each byte queued. -/
theorem queuedFrameOnTheWire : Obligations.QueuedFrameOnTheWire := by
  intro s h hr
  obtain ⟨t, ht, hend⟩ := carries_frame h hr
  rw [← frame_length]
  exact ⟨ht.lineTrace_eq, t, ht.tickRun_eq, hend⟩

end Sys2Proof.Machine
end

section
/-! SUPPORT. The Timing Program's steps as the obligations state them, with their literal values (R91, R93 to R101). -/

namespace Sys2Proof.Machine

/-! ### The dispatch points -/

/-- The dispatch points: IDLE, the last tick interval of MAB, STOP2 (R93). -/
theorem atDispatchPoint_iff {s : State} :
    atDispatchPoint s = true ↔ s.phase = phIdle ∨ (s.phase = phMab ∧ s.cnt = 0#8) ∨ s.phase = phStop2 := by
  simp [atDispatchPoint, or_assoc]

/-- At a dispatch point a tick dispatches (R93, R94, R96, R100). -/
theorem tickNext_of_dispatchPoint {s : State} (h : atDispatchPoint s = true) : tickNext s = dispatch s := by
  rcases atDispatchPoint_iff.mp h with hp | ⟨hp, hc⟩ | hp
  · exact tickNext_idle hp
  · exact (tickNext_mab hp).trans (if_pos hc)
  · exact tickNext_stop2 hp

/-- The instructions of the dispatch points dispatch. -/
theorem exec_of_dispatchPoint {s : State} {i : Instr} (h : i = .tpIdle ∨ i = .tpStop2 ∨ (i = .tpMab ∧ s.cnt = 0#8)) :
    exec i s = .next (dispatch s) := by
  rcases h with rfl | rfl | ⟨rfl, hc⟩
  · rfl
  · rfl
  · exact if_pos hc

/-- Settles O18: the three instructions are a dispatch, which has three cases. -/
theorem dispatchPointsDispatch : Obligations.DispatchPointsDispatch := by
  intro s i hi
  rw [exec_of_dispatchPoint hi]
  refine ⟨fun hr => ?_, fun b rest hr hq => ?_, fun hr hq => ?_⟩
  · rw [dispatch_rpend hr]
  · rw [dispatch_cons hr hq]
  · rw [dispatch_nil hr hq]

/-! ### The other steps -/

/-- Settles O19: each of the two steps is a choice by `CNT = 0`. -/
theorem breakAndMabCountDown : Obligations.BreakAndMabCountDown := by
  intro s
  exact ⟨fun hc => if_neg hc, fun hc => if_pos hc, fun hc => if_neg hc, fun hc => if_pos hc⟩

/-- Settles O20: START and STOP1 have one outcome, DATA a choice by `CNT = 7`. -/
theorem characterStepsAdvance : Obligations.CharacterStepsAdvance := by
  intro s
  exact ⟨rfl, fun hc => if_neg hc, fun hc => if_pos hc, rfl⟩

/-! ### The line -/

/-- Settles O22: bit `CNT[2:0]` is bit `CNT % 8`; the other phases have a constant level. -/
theorem lineLevelOfEachPhase : Obligations.LineLevelOfEachPhase := by
  intro n b
  have hbit : (n.extractLsb' 0 3).toNat = n.toNat % 8 := by
    rw [BitVec.extractLsb'_toNat, Nat.shiftRight_zero]
  refine ⟨rfl, rfl, rfl, rfl, ?_, rfl, rfl⟩
  rw [← hbit]
  rfl

/-- A reserved phase has no level (R101). -/
theorem lineLevel_reserved {p : PhaseCode} (h : 7 ≤ p.toNat) (n : BitVec 8) (b : Byte) : lineLevel p n b = none := by
  have hne : ∀ k : PhaseCode, k.toNat < 7 → p ≠ k := fun k hk e => by rw [e] at h; omega
  unfold lineLevel
  iterate 7 rw [if_neg (hne _ (by decide))]

end Sys2Proof.Machine
end

section
/-! SUPPORT. The order of one cycle (R90): the Engine's step is the only one that moves the Timing Program, and a write meets what it
left. -/

namespace Sys2Proof.Machine

/-! ### The place in the Timing Program -/

/-- `t` is where `s` is in the Timing Program: PHASE, CNT and SHIFT, which give the level of the line (R26 to R28, R91). -/
structure SamePlace (s t : State) : Prop where
  phase : t.phase = s.phase := by simp
  cnt : t.cnt = s.cnt := by simp
  shift : t.shift = s.shift := by simp

theorem SamePlace.refl (s : State) : SamePlace s s := ⟨rfl, rfl, rfl⟩

theorem SamePlace.symm {s t : State} (h : SamePlace s t) : SamePlace t s := ⟨h.phase.symm, h.cnt.symm, h.shift.symm⟩

theorem SamePlace.trans {s t u : State} (h : SamePlace s t) (h' : SamePlace t u) : SamePlace s u :=
  ⟨h'.phase.trans h.phase, h'.cnt.trans h.cnt, h'.shift.trans h.shift⟩

theorem SamePlace.lineOf_eq {s t : State} (h : SamePlace s t) : lineOf t = lineOf s := by
  rw [lineOf, lineOf, h.phase, h.cnt, h.shift]

/-- Two states at one place, with the same queue and RPEND, dispatch to one place (R93). -/
theorem dispatch_samePlace {s t : State} (h : SamePlace s t) (hq : t.txq = s.txq) (hr : t.rpend = s.rpend) :
    SamePlace (dispatch s) (dispatch t) := by
  rcases dispatch_cases s with ⟨hrp, he⟩ | ⟨b, rest, hrp, hqs, he⟩ | ⟨hrp, hqs, he⟩ <;> rw [he]
  · rw [dispatch_rpend (hr.trans hrp)]; exact ⟨rfl, rfl, h.shift⟩
  · rw [dispatch_cons (hr.trans hrp) (hq.trans hqs)]; exact ⟨rfl, h.cnt, rfl⟩
  · rw [dispatch_nil (hr.trans hrp) (hq.trans hqs)]; exact ⟨rfl, h.cnt, h.shift⟩

/-- Everything a tick can do off the dispatch points: count, or go on to the phase that follows (R95 to R99, R101). -/
theorem tickNext_cases_off_dispatch {s : State} (hd : atDispatchPoint s = false) :
    (s.phase = phBreak ∧ s.cnt = 0#8 ∧ tickNext s = { s with phase := phMab, cnt := 7#8 }) ∨
    (s.phase = phBreak ∧ s.cnt ≠ 0#8 ∧ tickNext s = { s with cnt := s.cnt - 1#8 }) ∨
    (s.phase = phMab ∧ s.cnt ≠ 0#8 ∧ tickNext s = { s with cnt := s.cnt - 1#8 }) ∨
    (s.phase = phStart ∧ tickNext s = { s with phase := phData, cnt := 0#8 }) ∨
    (s.phase = phData ∧ s.cnt = 7#8 ∧ tickNext s = { s with phase := phStop1 }) ∨
    (s.phase = phData ∧ s.cnt ≠ 7#8 ∧ tickNext s = { s with cnt := s.cnt + 1#8 }) ∨
    (s.phase = phStop1 ∧ tickNext s = { s with phase := phStop2 }) ∨
    (7 ≤ s.phase.toNat ∧ tickNext s = badPhaseStop s) := by
  have hpoint : ∀ {p : Prop}, atDispatchPoint s = true → p := fun h => absurd h (by simp [hd])
  rcases tickNext_cases s with ⟨hp, _⟩ | h | h | ⟨hp, hc, _⟩ | h | h | h | h | h | ⟨hp, _⟩ | h
  · exact hpoint (atDispatchPoint_iff.mpr (.inl hp))
  · exact .inl h
  · exact .inr (.inl h)
  · exact hpoint (atDispatchPoint_iff.mpr (.inr (.inl ⟨hp, hc⟩)))
  · exact .inr (.inr (.inl h))
  · exact .inr (.inr (.inr (.inl h)))
  · exact .inr (.inr (.inr (.inr (.inl h))))
  · exact .inr (.inr (.inr (.inr (.inr (.inl h)))))
  · exact .inr (.inr (.inr (.inr (.inr (.inr (.inl h))))))
  · exact hpoint (atDispatchPoint_iff.mpr (.inr (.inr hp)))
  · exact .inr (.inr (.inr (.inr (.inr (.inr (.inr h))))))

/-- Off the dispatch points a tick looks at the place alone (R95 to R99). -/
theorem tickNext_samePlace {s t : State} (h : SamePlace s t) (hd : atDispatchPoint s = false) :
    SamePlace (tickNext s) (tickNext t) := by
  rcases tickNext_cases_off_dispatch hd with ⟨hp, hc, he⟩ | ⟨hp, hc, he⟩ | ⟨hp, hc, he⟩ | ⟨hp, he⟩ | ⟨hp, hc, he⟩ |
    ⟨hp, hc, he⟩ | ⟨hp, he⟩ | ⟨hp, he⟩ <;> rw [he]
  · rw [tickNext_break (h.phase.trans hp), if_pos (h.cnt.trans hc)]; exact ⟨rfl, rfl, h.shift⟩
  · rw [tickNext_break (h.phase.trans hp), if_neg (h.cnt ▸ hc)]; exact ⟨h.phase, by simp [h.cnt], h.shift⟩
  · rw [tickNext_mab (h.phase.trans hp), if_neg (h.cnt ▸ hc)]; exact ⟨h.phase, by simp [h.cnt], h.shift⟩
  · rw [tickNext_start (h.phase.trans hp)]; exact ⟨rfl, rfl, h.shift⟩
  · rw [tickNext_data (h.phase.trans hp), if_pos (h.cnt.trans hc)]; exact ⟨rfl, h.cnt, h.shift⟩
  · rw [tickNext_data (h.phase.trans hp), if_neg (h.cnt ▸ hc)]; exact ⟨h.phase, by simp [h.cnt], h.shift⟩
  · rw [tickNext_stop1 (h.phase.trans hp)]; exact ⟨rfl, h.cnt, h.shift⟩
  · rw [tickNext_reserved (h.phase.symm ▸ hp)]; exact ⟨h.phase, h.cnt, h.shift⟩

/-! ### A tick in a cycle -/

/-- The state with `acc` as its accumulator. -/
def withAcc (acc : BitVec 25) (s : State) : State := { s with acc := acc }

@[simp] theorem withAcc_txq (acc : BitVec 25) (s : State) : (withAcc acc s).txq = s.txq := rfl

theorem samePlace_withAcc (acc : BitVec 25) (s : State) : SamePlace s (withAcc acc s) := ⟨rfl, rfl, rfl⟩

/-- A tick step goes to a place that the accumulator does not decide. -/
theorem tickNext_withAcc_samePlace (acc : BitVec 25) (s : State) : SamePlace (tickNext s) (tickNext (withAcc acc s)) := by
  cases hd : atDispatchPoint s with
  | false => exact tickNext_samePlace (samePlace_withAcc acc s) hd
  | true =>
    rw [tickNext_of_dispatchPoint hd, tickNext_of_dispatchPoint (s := withAcc acc s) hd]
    exact dispatch_samePlace (samePlace_withAcc acc s) rfl rfl

/-- Out of reset, a tick falls where the Engine is on and the divider ticks (R90). -/
theorem tickNow_eq {s : State} (hr : (busIn s).rst = false) : tickNow s = (engineOn s && (divider s.acc (d256 s)).1) := by
  simp [tickNow, hr]

/-- A cycle with a tick is out of reset, with the Engine on. -/
theorem engineOn_of_tickNow {s : State} (h : tickNow s = true) : engineOn s = true ∧ (divider s.acc (d256 s)).1 = true := by
  simp only [tickNow, Bool.and_eq_true] at h
  exact ⟨h.1.2, h.2⟩

theorem running_of_tickNow {s : State} (h : tickNow s = true) : s.running = true :=
  (Bool.and_eq_true_iff.mp (engineOn_of_tickNow h).1).1

/-- In a cycle with a tick the Engine's step is the new ACC and the tick step (R90). -/
theorem engineNext_of_tickNow {s : State} (h : tickNow s = true) :
    engineNext s = tickNext (withAcc (divider s.acc (d256 s)).2 s) := by
  obtain ⟨hon, ht⟩ := engineOn_of_tickNow h
  exact engineNext_tick hon ht

/-- In a cycle without a tick the Engine's step changes at most ACC. -/
theorem engineNext_of_not_tickNow {s : State} (hr : (busIn s).rst = false) (h : tickNow s = false) :
    ∃ acc, engineNext s = withAcc acc s := by
  cases hon : engineOn s with
  | false => exact ⟨s.acc, engineNext_off hon⟩
  | true => exact ⟨_, engineNext_noTick hon (by simpa [tickNow_eq hr, hon] using h)⟩

/-! ### What a write leaves alone -/

section
variable {w : Haw} (hw : hawWr w = true) (s : State)
include hw

/-- No write moves the Timing Program (R90). -/
theorem write_samePlace : SamePlace s (execNext (decodeHaw w) s) := by
  rcases write_cases w s hw with
    ⟨_, he⟩ | ⟨_, he⟩ | ⟨_, he⟩ | ⟨_, _, he⟩ | ⟨_, _, he⟩ | ⟨_, _, he⟩ | ⟨_, _, he⟩ | ⟨_, he⟩ <;> rw [he] <;> exact {}

/-- No write lets a stuck Engine go (R101). -/
theorem write_stuck : (execNext (decodeHaw w) s).stuck = s.stuck := by
  rcases write_cases w s hw with
    ⟨_, he⟩ | ⟨_, he⟩ | ⟨_, he⟩ | ⟨_, _, he⟩ | ⟨_, _, he⟩ | ⟨_, _, he⟩ | ⟨_, _, he⟩ | ⟨_, he⟩ <;> simp [he]

/-- The one write that can change ACC is an ENABLE of a Stopped block (R118). -/
theorem write_acc :
    (execNext (decodeHaw w) s).acc = s.acc ∨
    (s.running = false ∧ (execNext (decodeHaw w) s).acc = 0#25 ∧ (execNext (decodeHaw w) s).running = true) := by
  rcases write_cases w s hw with
    ⟨_, he⟩ | ⟨_, he⟩ | ⟨_, he⟩ | ⟨_, _, he⟩ | ⟨_, _, he⟩ | ⟨_, _, he⟩ | ⟨_, _, he⟩ | ⟨_, he⟩
  case inr.inr.inr.inr.inl =>
    rcases enable_cases s with ⟨_, h⟩ | ⟨_, _, h⟩ | ⟨hstop, _, h⟩
    · exact .inl (by simp [he, h])
    · exact .inl (by simp [he, h])
    · exact .inr ⟨hstop, by simp [he, h], by simp [he, h]⟩
  all_goals exact .inl (by simp [he])

/-- The one write that can change RPEND is a RESTART of a Running block, which sets it (R136). -/
theorem write_rpend :
    (execNext (decodeHaw w) s).rpend = s.rpend ∨
    (s.running = true ∧ (hawReg w = 3#5 ∧ opCode (hawData w) = 2#4) ∧ (execNext (decodeHaw w) s).rpend = true) := by
  rcases write_cases w s hw with
    ⟨_, he⟩ | ⟨_, he⟩ | ⟨_, he⟩ | ⟨_, _, he⟩ | ⟨_, _, he⟩ | ⟨hreg, hcode, he⟩ | ⟨_, _, he⟩ | ⟨_, he⟩
  case inr.inr.inr.inr.inr.inl =>
    rcases restart_cases s with ⟨_, h⟩ | ⟨hrun, h⟩
    · exact .inl (by simp [he, h])
    · exact .inr ⟨hrun, ⟨hreg, hcode⟩, by simp [he, h]⟩
  all_goals exact .inl (by simp [he])

end

/-! ### The whole cycle -/

/-- Out of reset, a cycle leaves the Timing Program where the Engine's step put it (R90). -/
theorem step_samePlace {s t : State} (hr : (busIn s).rst = false) (h : step s = .next t) : SamePlace (engineNext s) t := by
  rcases step_cases_engine_first h with ⟨hrst, _⟩ | ⟨_, v, rfl⟩ | ⟨w, _, hw, rfl⟩
  · simp [hr] at hrst
  · exact {}
  · obtain ⟨hp, hc, hs⟩ := write_samePlace hw (beginCycle (engineNext s))
    exact ⟨hp, hc, hs⟩

/-- A cycle without a tick leaves the Timing Program where it is, whatever the access (R90, R103). -/
theorem step_samePlace_of_noTick {s t : State} (hr : (busIn s).rst = false) (hn : tickNow s = false) (h : step s = .next t) :
    SamePlace s t := by
  obtain ⟨acc, he⟩ := engineNext_of_not_tickNow hr hn
  exact (samePlace_withAcc acc s).trans (he ▸ step_samePlace hr h)

/-- A cycle with a tick brings the Timing Program where the tick step brings it, whatever the access (R90). -/
theorem step_samePlace_of_tick {s t : State} (ht : tickNow s = true) (hr : (busIn s).rst = false) (h : step s = .next t) :
    SamePlace (tickNext s) t := by
  refine (tickNext_withAcc_samePlace (divider s.acc (d256 s)).2 s).trans ?_
  rw [← engineNext_of_tickNow ht]
  exact step_samePlace hr h

/-- Settles O33: the Engine's step moves the program only at a tick, and no access moves it. -/
theorem programAdvancesExactlyAtTicks : Obligations.ProgramAdvancesExactlyAtTicks := by
  intro s t hr h
  refine ⟨fun hn => ?_, fun ht => ?_⟩
  · obtain ⟨hp, hc, hs⟩ := step_samePlace_of_noTick hr hn h
    exact ⟨hp, hc, hs⟩
  · obtain ⟨hp, hc, hs⟩ := step_samePlace_of_tick ht hr h
    exact ⟨tickNext s, tickStep_eq s, hp, hc, hs⟩

/-- Settles O32: the Engine is off, and of the writes a Stopped block obeys, only ENABLE reaches one of these elements, ACC. -/
theorem stoppedEngineStandsStill : Obligations.StoppedEngineStandsStill := by
  intro s t hstop hr h
  have hoff : engineOn s = false := by simp [engineOn, hstop]
  have hnoTick : tickNow s = false := by simp [tickNow, hoff]
  obtain ⟨hp, hc, hs⟩ := step_samePlace_of_noTick hr hnoTick h
  refine ⟨hnoTick, hp, hc, hs, ?_⟩
  rcases step_cases_engine_first h with ⟨hrst, _⟩ | ⟨_, v, rfl⟩ | ⟨w, _, hw, rfl⟩
  · simp [hr] at hrst
  · simp [engineNext_off hoff]
  · rw [engineNext_off hoff]
    have hq : (execNext (decodeHaw w) (beginCycle s)).txq = s.txq := by simp [write_txq hw, pushByte_txq, hstop]
    have hrp : (execNext (decodeHaw w) (beginCycle s)).rpend = s.rpend := by
      rcases write_rpend hw (beginCycle s) with he | ⟨hrun, _⟩
      · exact he
      · simp [hstop] at hrun
    refine ⟨hq, hrp, ?_⟩
    rcases write_acc hw (beginCycle s) with he | ⟨_, hacc, hrun⟩
    · exact .inl he
    · exact .inr ⟨hacc, hrun⟩

/-- Settles O21: the reserved steps stop the Engine, and neither the Engine nor an access undoes that. -/
theorem reservedPhaseSticks : Obligations.ReservedPhaseSticks := by
  have hoff : ∀ s : State, s.stuck = true → engineNext s = s := fun s hs => engineNext_off (by simp [engineOn, hs])
  refine ⟨?_, fun s hs => by rw [engineStep_eq, hoff s hs], ?_, ?_, fun p n b hp => lineLevel_reserved hp n b⟩
  · rintro s code i (rfl | rfl)
    · rfl
    · rfl
  · intro s t hs hr h
    rcases step_cases_engine_first h with ⟨hrst, _⟩ | ⟨_, v, rfl⟩ | ⟨w, _, hw, rfl⟩
    · simp [hr] at hrst
    · simpa [hoff s hs] using hs
    · simpa [hoff s hs, write_stuck hw] using hs
  · rintro s hp ⟨_, hidle, _⟩
    simp [hidle] at hp

/-! ### Accesses in the cycle of a tick -/

/-- A cycle with a write is the Engine's step and then the write (R58, R90). -/
theorem step_write {s t : State} {w : Haw} (hb : busIn s = { rst := false, haw := some w }) (hw : hawWr w = true)
    (h : step s = .next t) : t = endCycle (execNext (decodeHaw w) (beginCycle (engineNext s))) := by
  rcases step_cases h with ⟨hr, _⟩ | ⟨_, hn, _⟩ | ⟨v, _, hv, _, ht⟩ | ⟨v, _, hv, hrd, _⟩
  · simp [hb] at hr
  · simp [hb] at hn
  · obtain rfl : w = v := by simpa [hb] using hv
    rw [ht, engineNext_beginCycle]
  · obtain rfl : w = v := by simpa [hb] using hv
    simp [hw] at hrd

/-- At a tick at a dispatch point the Engine's step is a dispatch (R90, R93). -/
theorem engineNext_of_dispatch {s : State} (ht : tickNow s = true) (hd : atDispatchPoint s = true) :
    engineNext s = dispatch (withAcc (divider s.acc (d256 s)).2 s) := by
  rw [engineNext_of_tickNow ht]
  exact tickNext_of_dispatchPoint (s := withAcc _ s) hd

/-- At an IDLE tick with nothing to start the Engine's step is the new ACC (R93, R94). -/
theorem engineNext_at_rest {s : State} (ht : tickNow s = true) (hp : s.phase = phIdle) (hrp : s.rpend = false)
    (hq : s.txq = []) : engineNext s = withAcc (divider s.acc (d256 s)).2 s := by
  have hidle : { withAcc (divider s.acc (d256 s)).2 s with phase := phIdle } = withAcc (divider s.acc (d256 s)).2 s := by
    rw [← hp]; rfl
  rw [engineNext_of_dispatch ht (atDispatchPoint_iff.mpr (.inl hp)), ← hidle]
  exact dispatch_nil hrp hq

/-- A PUSH that finds a free entry after the Engine's step is accepted, whatever the queue was before it (R90, R130). -/
theorem step_push_of_free {s t : State} {w : Haw} {aa : BitVec 2} {hi : BitVec 24} {b : Byte}
    (hb : busIn s = { rst := false, haw := some w }) (hd : decodeHaw w = .push aa hi b) (hrun : s.running = true)
    (hfree : (engineNext s).txq.length < txqDepth s) (h : step s = .next t) :
    t = endCycle (qPush b (beginCycle (engineNext s))) := by
  have hdepth : txqDepth (beginCycle (engineNext s)) = txqDepth s := txqDepth_congr (by simp)
  rw [step_push hb hd h, pushByte_of_free b (by simpa using hrun) (hdepth ▸ hfree)]

/-- A RESTART of a Running block is latched, whatever the Engine did in the cycle (R90, R136). -/
theorem step_restart {s t : State} {w : Haw} {aa : BitVec 2} {hi : BitVec 28}
    (hb : busIn s = { rst := false, haw := some w }) (hd : decodeHaw w = .cmdRestart aa hi) (hrun : s.running = true)
    (h : step s = .next t) : t = endCycle { beginCycle (engineNext s) with rpend := true } := by
  have hexec : execNext (decodeHaw w) (beginCycle (engineNext s)) = restart (beginCycle (engineNext s)) := by rw [hd]; rfl
  rw [step_write hb (decodeHaw_cmdRestart hd).1 h, hexec, restart, if_neg (by simp [hrun])]

/-- Settles O34: the access meets the state after the dispatch, which has taken the head of a full queue or stayed in IDLE. -/
theorem sameCycleOrder : Obligations.SameCycleOrder := by
  refine ⟨?_, ?_, ?_⟩
  · intro s t w aa hi b head rest hb hd ht hdp hrp hq hfull h
    have he : engineNext s = _ := (engineNext_of_dispatch ht hdp).trans (dispatch_cons hrp hq)
    have hfree : (engineNext s).txq.length < txqDepth s := by
      rw [← hfull, qLevel, hq, he]
      exact Nat.lt_succ_self _
    rw [step_push_of_free hb hd (running_of_tickNow ht) hfree h, he]
    exact ⟨rfl, rfl, rfl, rfl, rfl⟩
  · intro s t w aa hi b hb hd ht hp hrp hq h
    have he := engineNext_at_rest ht hp hrp hq
    have hfree : (engineNext s).txq.length < txqDepth s := by
      rw [he, withAcc_txq, hq]
      exact Nat.lt_of_lt_of_le (by decide) (txqDepth_bounds s).1
    rw [step_push_of_free hb hd (running_of_tickNow ht) hfree h, he]
    exact ⟨by simp [hq], hp, rfl⟩
  · intro s t w aa hi hb hd ht hp hrp hq h
    rw [step_restart hb hd (running_of_tickNow ht) h, engineNext_at_rest ht hp hrp hq]
    exact ⟨rfl, hp, rfl⟩

/-! ### What starts, and what follows what -/

/-- What a dispatch can start: a break for a pending restart, the character of the head of the queue, or nothing (R93). -/
theorem dispatch_starts (s : State) :
    ((dispatch s).phase = phBreak ∧ s.rpend = true ∧ (dispatch s).cnt = 87#8) ∨
    ((dispatch s).phase = phStart ∧ s.rpend = false ∧ s.txq.take 1 = [(dispatch s).shift]) ∨
    (dispatch s).phase = phIdle := by
  rcases dispatch_cases s with ⟨hrp, he⟩ | ⟨b, rest, hrp, hq, he⟩ | ⟨_, _, he⟩
  · exact .inl (by simp [he, hrp])
  · exact .inr (.inl (by simp [he, hrp, hq]))
  · exact .inr (.inr (by simp [he]))

/-- Off the dispatch points a tick starts neither a break nor a character (R95 to R99). -/
theorem tickNext_starts_nothing_off_dispatch {s : State} (hd : atDispatchPoint s = false) :
    (tickNext s).phase = s.phase ∨ ((tickNext s).phase ≠ phBreak ∧ (tickNext s).phase ≠ phStart) := by
  rcases tickNext_cases_off_dispatch hd with ⟨_, _, he⟩ | ⟨_, _, he⟩ | ⟨_, _, he⟩ | ⟨_, he⟩ | ⟨_, _, he⟩ | ⟨_, _, he⟩ |
    ⟨_, he⟩ | ⟨_, he⟩ <;> rw [he]
  · exact .inr (by decide : phMab ≠ phBreak ∧ phMab ≠ phStart)
  · exact .inl rfl
  · exact .inl rfl
  · exact .inr (by decide : phData ≠ phBreak ∧ phData ≠ phStart)
  · exact .inr (by decide : phStop1 ≠ phBreak ∧ phStop1 ≠ phStart)
  · exact .inl rfl
  · exact .inr (by decide : phStop2 ≠ phBreak ∧ phStop2 ≠ phStart)
  · exact .inl rfl

/-- A tick that starts a break is at a dispatch point with a restart pending (R93, R107). -/
theorem tickNext_starts_break {s : State} (h : (tickNext s).phase = phBreak) (hne : s.phase ≠ phBreak) :
    atDispatchPoint s = true ∧ s.rpend = true ∧ (tickNext s).cnt = 87#8 := by
  cases hd : atDispatchPoint s with
  | false =>
    rcases tickNext_starts_nothing_off_dispatch hd with he | ⟨hb, _⟩
    · exact absurd (he.symm.trans h) hne
    · exact absurd h hb
  | true =>
    rw [tickNext_of_dispatchPoint hd] at h ⊢
    rcases dispatch_starts s with ⟨_, hrp, hc⟩ | ⟨hp, _, _⟩ | hp
    · exact ⟨rfl, hrp, hc⟩
    · exact absurd (hp.symm.trans h) (by decide)
    · exact absurd (hp.symm.trans h) (by decide)

/-- A tick that starts a character is at a dispatch point with none pending, and takes the character from the queue (R93, R107). -/
theorem tickNext_starts_character {s : State} (h : (tickNext s).phase = phStart) (hne : s.phase ≠ phStart) :
    atDispatchPoint s = true ∧ s.rpend = false ∧ s.txq.take 1 = [(tickNext s).shift] := by
  cases hd : atDispatchPoint s with
  | false =>
    rcases tickNext_starts_nothing_off_dispatch hd with he | ⟨_, hs⟩
    · exact absurd (he.symm.trans h) hne
    · exact absurd h hs
  | true =>
    rw [tickNext_of_dispatchPoint hd] at h ⊢
    rcases dispatch_starts s with ⟨hp, _, _⟩ | ⟨_, hrp, hq⟩ | hp
    · exact absurd (hp.symm.trans h) (by decide)
    · exact ⟨rfl, hrp, hq⟩
    · exact absurd (hp.symm.trans h) (by decide)

/-- Settles O44: without a tick the phase stays, and a tick has the outcomes of its phase alone. -/
theorem noCharacterOrBreakIsClipped : Obligations.NoCharacterOrBreakIsClipped := by
  intro s t hr h
  cases ht : tickNow s with
  | false =>
    obtain ⟨hp, _, _⟩ := step_samePlace_of_noTick hr ht h
    rw [hp]
    exact ⟨fun he hne => absurd he hne, fun he hne => absurd he hne, .inl, .inl, .inl, .inl, fun he hne => absurd he hne⟩
  | true =>
    obtain ⟨hp, hc, hs⟩ := step_samePlace_of_tick ht hr h
    rw [hp, hc, hs]
    refine ⟨fun he hne => ⟨rfl, tickNext_starts_break he hne⟩, fun he hne => ?_, fun he => ?_, fun he => ?_, fun he => ?_,
      fun he => ?_, fun he hne => ?_⟩
    · obtain ⟨hd, hrp, hq⟩ := tickNext_starts_character he hne
      exact ⟨rfl, hd, hrp, by simp [poppedNow, ht, hd, hrp, hq]⟩
    · rw [tickNext_start he]; exact .inr ⟨rfl, rfl⟩
    · rw [tickNext_data he]
      split
      · exact .inr ⟨rfl, ‹_›⟩
      · exact .inl he
    · rw [tickNext_stop1 he]; exact .inr rfl
    · rw [tickNext_break he]
      split
      · exact .inr ⟨rfl, ‹_›, rfl⟩
      · exact .inl he
    · by_contra hc
      rw [tickNext_mab he, if_neg hc] at hne
      exact hne he

/-! ### The decoded instruction -/

/-- With ACC as a table word's placing leaves it, a tick is due at any legal divisor (R110, log 4). -/
theorem divider_ticks_of_placed {acc : BitVec 25} {d : BitVec 24} (hd : 256 ≤ d.toNat) :
    (divider (if (divider acc d).1 then acc else BitVec.ofNat 25 (d.toNat - 256)) d).1 = true := by
  cases ht : (divider acc d).1 with
  | true => simpa using ht
  | false =>
    have hacc : (BitVec.ofNat 25 (d.toNat - 256)).toNat = d.toNat - 256 := by
      have := d.isLt
      rw [BitVec.toNat_ofNat]
      omega
    simp only [Bool.false_eq_true, if_false, divider]
    rw [if_pos (by omega)]

/-- A placed phase code has a tick in the very next cycle (log 4). -/
theorem tickNow_placePhase (p : PhaseCode) (s : State) : tickNow (placePhase p s) = true := by
  have hdiv : 256 ≤ (d256 (placePhase p s)).toNat := by
    rw [← int_ne_zero_iff]
    unfold placePhase
    by_cases h : s.clkdiv.int = 0#16 <;> simp [h]
  have hon : engineOn (placePhase p s) = true := rfl
  rw [tickNow_eq rfl, hon, Bool.true_and]
  exact divider_ticks_of_placed hdiv

/-- Settles O24: each clause is a branch of the cycle, the Engine's step or the placing. -/
theorem stepRunsTheDecodedInstruction : Obligations.StepRunsTheDecodedInstruction := by
  refine ⟨fun s s1 s2 w hb hw he hx => ?_, fun s s0 s1 w hb hw hx he => ?_, fun s s1 hb he => ?_, fun s hon ht => ?_,
    fun s w => ?_, fun s p => ?_⟩
  · simp [step, cycleStep, hb, hw, cycleWrite, he, hx]
  · simp [step, cycleStep, hb, hw, cycleRead, he, hx]
  · simp [step, cycleStep, hb, cycleIdle, he]
  · simp [engineStep, hon, ht, tickStep]
  · simp [State.withFetchWord, placeTableWord, placeBus, busIn]
  · have hplace : s.withFetchWord 8 p.toNat = placePhase p s := by simp [State.withFetchWord, placeTableWord]
    rw [hplace]
    exact ⟨rfl, tickNow_placePhase p s⟩

end Sys2Proof.Machine
end

section
/-! SUPPORT. The cycles up to the next tick (R108, R110): how many they are, and what stands still in them whatever the Host does short of
reset. -/

namespace Sys2Proof.Machine

/-! ### Cycles without a tick -/

/-- A Running block under the invariant, with no reset to come. -/
structure Live (s : State) : Prop where
  inv : s.Inv
  noReset : s.noReset
  running : s.running = true

/-- Every cycle keeps a block live (R23). -/
theorem Live.step {s t : State} (h : Live s) (hstep : step s = .next t) : Live t where
  inv := everyCycleKeepsTheInvariant s t h.inv hstep
  noReset := h.noReset.step hstep
  running := (onlyEnableStartsOnlyResetStops s t hstep).2.1 h.noReset.busIn_rst h.running

theorem Live.engineOn {s : State} (h : Live s) : engineOn s = true := by
  simp [Machine.engineOn, h.running, h.inv.not_stuck]

theorem Live.acc_lt {s : State} (h : Live s) : s.acc.toNat < (d256 s).toNat := h.inv.acc_lt h.running

/-- A live block drives the level of its phase (R40). -/
theorem Live.dmxTx_eq {s : State} (h : Live s) : dmxTx s = lineOf s := by
  simp [dmxTx, lineOf, h.noReset.busIn_rst, h.running]

/-- While Running no access changes the divisor (R24, R189). -/
theorem Live.step_clkdiv {s t : State} (h : Live s) (hstep : Machine.step s = .next t) : t.clkdiv = s.clkdiv := by
  by_contra hne
  rcases divisorFrozenWhileRunning s t hstep hne with hr | ⟨hstop, _⟩
  · simp [h.noReset.busIn_rst] at hr
  · simp [h.running] at hstop

/-- While Running no access changes ACC: it is what the divider leaves (R90, R118). -/
theorem Live.step_acc {s t : State} (h : Live s) (hstep : Machine.step s = .next t) :
    t.acc = (divider s.acc (d256 s)).2 := by
  have hengine : (engineNext s).acc = (divider s.acc (d256 s)).2 := by
    unfold engineNext
    rw [if_pos h.engineOn]
    split
    · simp
    · rfl
  rw [← hengine]
  rcases step_cases_engine_first hstep with ⟨hr, _⟩ | ⟨_, v, rfl⟩ | ⟨w, _, hw, rfl⟩
  · simp [h.noReset.busIn_rst] at hr
  · simp
  · rcases write_acc hw (beginCycle (engineNext s)) with he | ⟨hstop, _⟩
    · exact he
    · simp [h.running] at hstop

/-- A tick falls exactly when the sum reaches the divisor, and then the divisor is taken off (R110). -/
theorem Live.tick_cases {s t : State} (h : Live s) (hstep : Machine.step s = .next t) :
    ((d256 s).toNat ≤ s.acc.toNat + 256 ∧ tickNow s = true ∧ t.acc.toNat = s.acc.toNat + 256 - (d256 s).toNat) ∨
    (s.acc.toNat + 256 < (d256 s).toNat ∧ tickNow s = false ∧ t.acc.toNat = s.acc.toNat + 256) := by
  have htick : tickNow s = (divider s.acc (d256 s)).1 := by
    rw [tickNow_eq h.noReset.busIn_rst, h.engineOn, Bool.true_and]
  rw [htick, h.step_acc hstep]
  exact divider_cases s.acc (d256 s) h.acc_lt

/-- A RESTART in the access of a cycle (R136). -/
def RestartPresented (s : State) : Prop :=
  ∃ w, (busIn s).haw = some w ∧ hawWr w = true ∧ hawReg w = 3#5 ∧ opCode (hawData w) = 2#4

/-- In a cycle without a tick RPEND keeps its value, or a RESTART sets it (R136). -/
theorem step_rpend_of_noTick {s t : State} (hr : (busIn s).rst = false) (hn : tickNow s = false) (h : step s = .next t) :
    t.rpend = s.rpend ∨ (t.rpend = true ∧ RestartPresented s) := by
  obtain ⟨acc, he⟩ := engineNext_of_not_tickNow hr hn
  rcases step_cases_engine_first h with ⟨hrst, _⟩ | ⟨_, v, rfl⟩ | ⟨w, hb, hw, rfl⟩
  · simp [hr] at hrst
  · exact .inl (by rw [he]; rfl)
  · rw [he]
    rcases write_rpend hw (beginCycle (withAcc acc s)) with hsame | ⟨_, ⟨hreg, hcode⟩, hset⟩
    · exact .inl hsame
    · exact .inr ⟨hset, w, by rw [hb], hw, hreg, hcode⟩

/-- In a cycle without a tick the queue only grows (R90, R130). -/
theorem step_txq_of_noTick {s t : State} (hr : (busIn s).rst = false) (hn : tickNow s = false) (h : step s = .next t) :
    s.txq <+: t.txq := by
  obtain ⟨acc, he⟩ := engineNext_of_not_tickNow hr hn
  exact ⟨acceptedNow s, by rw [step_txq hr h, he]; rfl⟩

/-! ### A quiet Host -/

theorem State.quiet.noReset {s : State} (h : s.quiet) : s.noReset := by
  intro l hl
  have hq := h l hl
  cases l with
  | cycle b => exact (Bool.and_eq_true_iff.mp hq).1
  | poll c => rfl

theorem State.quiet.step {s t : State} (h : s.quiet) (hstep : step s = .next t) : t.quiet := by
  intro l hl
  rw [step_host hstep] at hl
  exact h l (hostAfter_subset _ _ hl)

/-- A quiet Host presents no RESTART: its line of this cycle is an access line that is not one, or a poll. -/
theorem State.quiet.not_restartPresented {s : State} (h : s.quiet) : ¬ RestartPresented s := by
  rintro ⟨w, hhaw, hw, hreg, hcode⟩
  unfold busIn at hhaw
  split at hhaw
  · cases hhaw
  · next b rest hl =>
    have hq := h (.cycle b) (by simp [hl])
    simp [HostLine.quiet, hhaw, hw, hreg, hcode] at hq
  · cases hhaw
    exact absurd hw (by decide)

/-! ### The wait for a tick -/

/-- `t` comes after `s` by cycles without a tick and without reset: the Timing Program and the divisor stand still, no byte leaves the queue,
a pending restart stays pending, and a quiet Host makes none. -/
structure Unticked (s t : State) : Prop where
  live : Live t
  place : SamePlace s t
  divisor : t.clkdiv = s.clkdiv
  queue : s.txq <+: t.txq
  pending : s.rpend = true → t.rpend = true
  quiet : s.quiet → t.quiet ∧ t.rpend = s.rpend

theorem Unticked.refl {s : State} (h : Live s) : Unticked s s :=
  ⟨h, .refl s, rfl, ⟨[], List.append_nil _⟩, id, fun hq => ⟨hq, rfl⟩⟩

theorem Unticked.trans {s t u : State} (h : Unticked s t) (h' : Unticked t u) : Unticked s u where
  live := h'.live
  place := h.place.trans h'.place
  divisor := h'.divisor.trans h.divisor
  queue := h.queue.trans h'.queue
  pending := fun hp => h'.pending (h.pending hp)
  quiet := fun hq => ⟨(h'.quiet (h.quiet hq).1).1, (h'.quiet (h.quiet hq).1).2.trans (h.quiet hq).2⟩

/-- One cycle of the wait. -/
theorem Live.step_unticked {s t : State} (h : Live s) (hn : tickNow s = false) (hstep : Machine.step s = .next t) :
    Unticked s t := by
  have hr := h.noReset.busIn_rst
  have hrp := step_rpend_of_noTick hr hn hstep
  refine ⟨h.step hstep, step_samePlace_of_noTick hr hn hstep, h.step_clkdiv hstep, step_txq_of_noTick hr hn hstep,
    fun hp => ?_, fun hq => ⟨hq.step hstep, ?_⟩⟩
  · rcases hrp with he | ⟨he, _⟩
    · exact he.trans hp
    · exact he
  · exact hrp.resolve_right fun hset => hq.not_restartPresented hset.2

/-- As long as the sum stays below the divisor there is no tick, and the line is constant (R103, R110). -/
theorem Live.run_before_tick {s : State} (h : Live s) (n : Nat) (hn : s.acc.toNat + 256 * n < (d256 s).toNat) :
    ∃ u, run n s = .next u ∧ Unticked s u ∧ u.acc.toNat = s.acc.toNat + 256 * n ∧
      wireTrace n s = List.replicate n (lineOf s) := by
  induction n generalizing s with
  | zero => exact ⟨s, rfl, .refl h, rfl, rfl⟩
  | succ n ih =>
    obtain ⟨t, hstep⟩ := step_next s
    rcases h.tick_cases hstep with ⟨hle, _, _⟩ | ⟨_, hnoTick, hacc⟩
    · omega
    · have hwait := h.step_unticked hnoTick hstep
      have hd : d256 t = d256 s := d256_congr hwait.divisor
      obtain ⟨u, hrun, hrest, haccu, htrace⟩ := ih hwait.live (by rw [hd]; omega)
      refine ⟨u, by rw [run_succ hstep, hrun], hwait.trans hrest, by omega, ?_⟩
      rw [wireTrace, traceOf_succ dmxTx hstep, h.dmxTx_eq, ← wireTrace, htrace, hwait.place.lineOf_eq, List.replicate_succ]

/-- The cycles before the one of the next tick. -/
def cyclesBeforeTick (s : State) : Nat := ((d256 s).toNat - s.acc.toNat - 1) / 256

/-- From any cycle to the next tick: a wait, `u` after it, and the cycle of the tick, which leads to `t`. -/
structure TickReached (s u t : State) : Prop where
  runs : run (cyclesBeforeTick s + 1) s = .next t
  wait : Unticked s u
  tick : SamePlace (tickNext u) t
  live : Live t
  divisor : t.clkdiv = s.clkdiv
  acc : t.acc.toNat + (d256 s).toNat = s.acc.toNat + 256 * (cyclesBeforeTick s + 1)
  trace : wireTrace (cyclesBeforeTick s + 1) s = List.replicate (cyclesBeforeTick s + 1) (lineOf s)

/-- The next tick comes (R110). -/
theorem Live.reaches_tick {s : State} (h : Live s) : ∃ u t, TickReached s u t := by
  have hlt := h.acc_lt
  have hk : s.acc.toNat + 256 * cyclesBeforeTick s < (d256 s).toNat ∧
      (d256 s).toNat ≤ s.acc.toNat + 256 * cyclesBeforeTick s + 256 := by
    unfold cyclesBeforeTick
    omega
  obtain ⟨u, hrun, hwait, hacc, htrace⟩ := h.run_before_tick _ hk.1
  have hd : d256 u = d256 s := d256_congr hwait.divisor
  obtain ⟨t, hstep⟩ := step_next u
  rcases hwait.live.tick_cases hstep with ⟨_, htick, hacct⟩ | ⟨hlt', _, _⟩
  · have hr := hwait.live.noReset.busIn_rst
    have hlast : wireTrace 1 u = [lineOf s] := by
      rw [wireTrace, traceOf_succ dmxTx hstep, hwait.live.dmxTx_eq, hwait.place.lineOf_eq, traceOf_zero]
    refine ⟨u, t, ?_, hwait, step_samePlace_of_tick htick hr hstep, hwait.live.step hstep,
      (hwait.live.step_clkdiv hstep).trans hwait.divisor, by rw [hd] at hacct; omega, ?_⟩
    · rw [run_add, hrun, andThen_next, run_succ hstep, run_zero]
    · rw [wireTrace, traceOf_add dmxTx hrun, ← wireTrace, ← wireTrace, htrace, hlast, List.replicate_succ']
  · rw [hd] at hlt'
    omega

/-- The next tick comes within `ceil(D256 / 256)` cycles (R108). -/
theorem cyclesBeforeTick_lt (s : State) (h : s.acc.toNat < (d256 s).toNat) :
    cyclesBeforeTick s + 1 ≤ ((d256 s).toNat + 255) / 256 := by
  unfold cyclesBeforeTick
  omega

/-! ### The latency of a dispatch -/

/-- In IDLE the next tick dispatches, within one bit period, and the line is at mark until then (R94, R108). -/
theorem Live.dispatches_in_time {s : State} (h : Live s) (hp : s.phase = phIdle) :
    ∃ k u t, 1 ≤ k ∧ k ≤ ((d256 s).toNat + 255) / 256 ∧ run k s = .next t ∧ Unticked s u ∧ SamePlace (dispatch u) t ∧
      wireTrace k s = List.replicate k (some true) := by
  obtain ⟨u, t, ht⟩ := h.reaches_tick
  refine ⟨_, u, t, Nat.le_add_left 1 _, cyclesBeforeTick_lt s h.acc_lt, ht.runs, ht.wait, ?_, ?_⟩
  · rw [← tickNext_idle (ht.wait.place.phase.trans hp)]
    exact ht.tick
  · rw [ht.trace, lineOf_idle hp]

/-- Settles O56: the dispatch finds no restart, since the Host is quiet, and the byte still at the head of the queue. -/
theorem queuedByteStartsWithinOneBit : Obligations.QueuedByteStartsWithinOneBit := by
  intro s b rest hinv hquiet hrun hp hrp hq
  obtain ⟨k, u, t, hk, hle, hrunk, hwait, hplace, htrace⟩ :=
    Live.dispatches_in_time ⟨hinv, hquiet.noReset, hrun⟩ hp
  obtain ⟨more, hmore⟩ := hwait.queue
  have hqu : u.txq = b :: (rest ++ more) := by rw [← hmore, hq, List.cons_append]
  have hrpu : u.rpend = false := (hwait.quiet hquiet).2.trans hrp
  rw [dispatch_cons hrpu hqu] at hplace
  exact ⟨k, t, hk, hle, hrunk, hplace.phase, hplace.shift, htrace⟩

/-- A stretch of ticks that ends with a dispatch, with a restart pending at it, ends at the start of the break (R93). -/
theorem Carries.tickRun_restart {s t : State} {l : List Bool} (h : Carries s l (dispatch t)) (hr : t.rpend = true) :
    ∃ u, tickRun l.length s = .next u ∧ u.phase = phBreak ∧ u.cnt = 87#8 ∧ u.rpend = false ∧ u.txq = t.txq := by
  have hrun := h.tickRun_eq
  rw [dispatch_rpend hr] at hrun
  exact ⟨_, hrun, rfl, rfl, rfl, rfl⟩

/-- A mark-after-break to the dispatch that ends it (R96). -/
theorem carries_mab_to_dispatch {s : State} (h : s.phase = phMab) :
    Carries s (List.replicate s.cnt.toNat true ++ [true]) (dispatch { s with cnt := 0#8 }) :=
  (carries_mab h).append (carries_mab_last (s := { s with cnt := 0#8 }) h rfl)

/-- Settles O59: the restart stays pending up to the next dispatch; the ticks up to it are those of the character, of the break and its
MAB, or of the MAB. -/
theorem pendingRestartStartsInTime : Obligations.PendingRestartStartsInTime := by
  refine ⟨fun s hinv hnr hrun hp hrp => ?_, fun s hp hrp => ?_, fun s hp hrp => ?_, fun s hp hrp => ?_⟩
  · obtain ⟨k, u, t, hk, hle, hrunk, hwait, hplace, htrace⟩ := Live.dispatches_in_time ⟨hinv, hnr, hrun⟩ hp
    rw [dispatch_rpend (hwait.pending hrp)] at hplace
    exact ⟨k, t, hk, hle, hrunk, hplace.phase, hplace.cnt, htrace⟩
  · exact (carries_character hp).tickRun_restart hrp
  · have hmab := carries_mab_to_dispatch (s := { s with phase := phMab, cnt := 7#8 }) rfl
    have hrun := ((carries_break hp).append hmab).tickRun_restart hrp
    simpa [Nat.add_assoc] using hrun
  · simpa using (carries_mab_to_dispatch hp).tickRun_restart hrp

end Sys2Proof.Machine
end

section
/-! SUPPORT. The wire in cycles (R103, R104): off the dispatch points the Timing Program runs by itself, so the levels of the tick intervals
stand on the wire for one bit period each, whatever the Host does. -/

namespace Sys2Proof.Machine

/-! ### The ticks before the next dispatch point -/

/-- How many ticks lead from the place of `s` to the next dispatch point (R82, R83, R93). -/
def ticksToDispatch (s : State) : Nat :=
  if s.phase = phBreak then s.cnt.toNat + 8
  else if s.phase = phMab then s.cnt.toNat
  else if s.phase = phStart then 10
  else if s.phase = phData then 9 - s.cnt.toNat
  else if s.phase = phStop1 then 1
  else 0

theorem SamePlace.ticksToDispatch_eq {s t : State} (h : SamePlace s t) : ticksToDispatch t = ticksToDispatch s := by
  rw [ticksToDispatch, ticksToDispatch, h.phase, h.cnt]

theorem ticksToDispatch_break {s : State} (h : s.phase = phBreak) : ticksToDispatch s = s.cnt.toNat + 8 := by
  rw [ticksToDispatch, h]; rfl
theorem ticksToDispatch_mab {s : State} (h : s.phase = phMab) : ticksToDispatch s = s.cnt.toNat := by
  rw [ticksToDispatch, h]; rfl
theorem ticksToDispatch_start {s : State} (h : s.phase = phStart) : ticksToDispatch s = 10 := by
  rw [ticksToDispatch, h]; rfl
theorem ticksToDispatch_data {s : State} (h : s.phase = phData) : ticksToDispatch s = 9 - s.cnt.toNat := by
  rw [ticksToDispatch, h]; rfl
theorem ticksToDispatch_stop1 {s : State} (h : s.phase = phStop1) : ticksToDispatch s = 1 := by
  rw [ticksToDispatch, h]; rfl
theorem ticksToDispatch_stop2 {s : State} (h : s.phase = phStop2) : ticksToDispatch s = 0 := by
  rw [ticksToDispatch, h]; rfl
theorem ticksToDispatch_idle {s : State} (h : s.phase = phIdle) : ticksToDispatch s = 0 := by
  rw [ticksToDispatch, h]; rfl

theorem ticksToDispatch_of_dispatchPoint {s : State} (h : atDispatchPoint s = true) : ticksToDispatch s = 0 := by
  rcases atDispatchPoint_iff.mp h with hp | ⟨hp, hc⟩ | hp
  · exact ticksToDispatch_idle hp
  · rw [ticksToDispatch_mab hp, hc]; rfl
  · exact ticksToDispatch_stop2 hp

/-- With ticks to go, the state is off the dispatch points. -/
theorem off_dispatch_of_ticksToDispatch {s : State} (h : 0 < ticksToDispatch s) : atDispatchPoint s = false := by
  by_contra hd
  rw [ticksToDispatch_of_dispatchPoint (by simpa using hd)] at h
  exact absurd h (Nat.lt_irrefl 0)

/-- A tick takes one off the ticks to go. -/
theorem ticksToDispatch_tickNext {s : State} (hinv : s.Inv) (h : 0 < ticksToDispatch s) :
    ticksToDispatch (tickNext s) + 1 = ticksToDispatch s := by
  rcases tickNext_cases_off_dispatch (off_dispatch_of_ticksToDispatch h) with ⟨hp, hc, he⟩ | ⟨hp, hc, he⟩ | ⟨hp, hc, he⟩ |
    ⟨hp, he⟩ | ⟨hp, hc, he⟩ | ⟨hp, hc, he⟩ | ⟨hp, he⟩ | ⟨hp, _⟩
  · rw [he, ticksToDispatch_break hp, ticksToDispatch_mab rfl, hc]; rfl
  · rw [he, ticksToDispatch_break hp, ticksToDispatch_break (s := { s with cnt := s.cnt - 1#8 }) hp]
    bv_omega
  · rw [he, ticksToDispatch_mab hp, ticksToDispatch_mab (s := { s with cnt := s.cnt - 1#8 }) hp]
    bv_omega
  · rw [he, ticksToDispatch_start hp, ticksToDispatch_data rfl]; rfl
  · rw [he, ticksToDispatch_data hp, ticksToDispatch_stop1 rfl, hc]; rfl
  · have hle := hinv.data_cnt hp
    rw [he, ticksToDispatch_data hp, ticksToDispatch_data (s := { s with cnt := s.cnt + 1#8 }) hp]
    bv_omega
  · rw [he, ticksToDispatch_stop1 hp, ticksToDispatch_stop2 rfl]
  · exact absurd hinv.phase_le (by omega)

/-! ### One bit period -/

/-- The first cycle of a tick interval at a divisor without fraction: each interval is INT cycles from here on (R103, R110). -/
structure BitStart (s : State) : Prop where
  live : Live s
  acc : s.acc = 0#25
  frac : s.clkdiv.frac = 0#8

theorem BitStart.d256_eq {s : State} (h : BitStart s) : (d256 s).toNat = s.clkdiv.int.toNat * 256 := by
  simp [d256_toNat, h.frac]

/-- The tick interval is INT cycles long (R103). -/
theorem BitStart.cyclesBeforeTick_eq {s : State} (h : BitStart s) : cyclesBeforeTick s + 1 = s.clkdiv.int.toNat := by
  have hlt := h.live.acc_lt
  have hacc : s.acc.toNat = 0 := by rw [h.acc]; rfl
  rw [h.d256_eq] at hlt
  rw [cyclesBeforeTick, h.d256_eq]
  omega

/-- After a tick interval, the next one starts. -/
theorem BitStart.next {s u t : State} (h : BitStart s) (ht : TickReached s u t) : BitStart t where
  live := ht.live
  acc := by
    have hsum := ht.acc
    have hacc : s.acc.toNat = 0 := by rw [h.acc]; rfl
    rw [h.cyclesBeforeTick_eq, h.d256_eq] at hsum
    exact BitVec.eq_of_toNat_eq (by rw [BitVec.toNat_ofNat]; omega)
  frac := by rw [ht.divisor, h.frac]

/-! ### The wire from the tick intervals -/

/-- Up to the next dispatch, the wire carries the levels of the tick intervals for INT cycles each, whatever the Host does: `v` is at the
place of `s` and takes nothing but ticks (R90, R103). -/
theorem BitStart.wireTrace_eq {s v : State} (h : BitStart s) (hv : SamePlace s v) (n : Nat) (hn : n ≤ ticksToDispatch s + 1) :
    wireTrace (n * s.clkdiv.int.toNat) s = (lineTrace n v).flatMap (List.replicate s.clkdiv.int.toNat) := by
  induction n generalizing s v with
  | zero => simp [wireTrace]
  | succ n ih =>
    obtain ⟨u, t, ht⟩ := h.live.reaches_tick
    have hruns := ht.runs
    have htrace := ht.trace
    rw [h.cyclesBeforeTick_eq] at hruns htrace
    have hrest : wireTrace (n * s.clkdiv.int.toNat) t =
        (lineTrace n (tickNext v)).flatMap (List.replicate s.clkdiv.int.toNat) := by
      rcases Nat.eq_zero_or_pos n with rfl | hpos
      · simp [wireTrace]
      · have hticks : ticksToDispatch u = ticksToDispatch s := ht.wait.place.ticksToDispatch_eq
        have hoff : atDispatchPoint u = false := off_dispatch_of_ticksToDispatch (by omega)
        have hleft := ticksToDispatch_tickNext ht.wait.live.inv (by omega)
        have hplace : SamePlace t (tickNext v) :=
          ht.tick.symm.trans (tickNext_samePlace (ht.wait.place.symm.trans hv) hoff)
        rw [← ht.divisor]
        exact ih (h.next ht) hplace (by rw [ht.tick.ticksToDispatch_eq]; omega)
    rw [Nat.succ_mul, Nat.add_comm, wireTrace, traceOf_add dmxTx hruns, ← wireTrace, ← wireTrace, htrace, hrest,
      lineTrace_succ, hv.lineOf_eq, List.flatMap_cons]

/-- Settles O54: ten ticks lead from START to the last level, and the eleven levels are those of O51. -/
theorem characterInCycles : Obligations.CharacterInCycles := by
  intro s hinv hnr hrun hp hacc hfrac
  have hstart : BitStart s := ⟨⟨hinv, hnr, hrun⟩, hacc, hfrac⟩
  have hticks : ticksToDispatch s = 10 := ticksToDispatch_start hp
  rw [hstart.wireTrace_eq (.refl s) 11 (by omega), (characterInElevenTicks s hp).1]
  simp [List.flatMap_map, List.map_flatMap]

/-- Settles O55: 95 ticks lead from the first tick interval of the break to the last of its MAB, and the 96 levels are those of O52. -/
theorem breakAndMabInCycles : Obligations.BreakAndMabInCycles := by
  intro s hinv hnr hrun hp hc hacc hfrac
  have hstart : BitStart s := ⟨⟨hinv, hnr, hrun⟩, hacc, hfrac⟩
  have hticks : ticksToDispatch s = 95 := by rw [ticksToDispatch_break hp, hc]; rfl
  rw [hstart.wireTrace_eq (.refl s) 96 (by omega), (breakAndMabInNinetySixTicks s hp hc).1]
  rw [List.map_append, List.map_replicate, List.map_replicate, List.flatMap_append, List.flatMap_replicate,
    List.flatMap_replicate, List.flatten_replicate_replicate, List.flatten_replicate_replicate]

end Sys2Proof.Machine
end

section
/-! SUPPORT. The configuration accesses by their outcomes (R116 to R120), and where the line is at mark. -/

namespace Sys2Proof.Machine

/-! ### The outcomes of WR_CLKDIV and CMD_ENABLE -/

theorem setClkdiv_of_stopped {s : State} (h : s.running = false) (int : BitVec 16) (frac : BitVec 8) :
    setClkdiv int frac s = { s with clkdiv := { int := int, frac := frac } } := by
  simp [setClkdiv, h]

theorem setClkdiv_of_running {s : State} (h : s.running = true) (int : BitVec 16) (frac : BitVec 8) :
    setClkdiv int frac s = raiseErr .errState s := if_pos h

theorem enable_of_running {s : State} (h : s.running = true) : enable s = raiseErr .errState s := if_pos h

theorem enable_of_int_zero {s : State} (h : s.running = false) (hint : s.clkdiv.int = 0#16) :
    enable s = raiseErr .errClk s := by
  simp [enable, h, hint]

theorem enable_of_legal {s : State} (h : s.running = false) (hint : s.clkdiv.int ≠ 0#16) :
    enable s = { s with running := true, acc := 0#25 } := by
  simp [enable, h, hint]

/-! ### Stopped, and at mark -/

/-- A Stopped block takes no Engine step (R92). -/
theorem engineNext_of_stopped {s : State} (h : s.running = false) : engineNext s = s :=
  engineNext_off (by simp [engineOn, h])

/-- In IDLE the line is at mark, in reset and in either lifecycle state (R40, R91). -/
theorem dmxTx_idle {s : State} (h : s.phase = phIdle) : dmxTx s = some true := by
  unfold dmxTx
  split
  · rfl
  · exact lineOf_idle h

/-! ### The obligations -/

/-- Settles O8: the three fields are read off the word's number. -/
theorem clkdivReadAnswersIntAndFrac : Obligations.ClkdivReadAnswersIntAndFrac := by
  intro s aa data
  have hfrac := s.clkdiv.frac.isLt
  have hint := s.clkdiv.int.isLt
  refine ⟨clkdivWord s, rfl, ?_, ?_, ?_⟩ <;> apply extract_of_toNat <;> rw [clkdivWord_toNat]
  · omega
  · omega
  · rw [BitVec.toNat_ofNat]; omega

/-- Settles O9: the fields are read off the word's number, in which only the depth is open. -/
theorem paramReadAnswersTheParameters : Obligations.ParamReadAnswersTheParameters := by
  intro s aa data
  have hdepth := txqDepth_bounds s
  refine ⟨paramWord s, rfl, ?_, ?_, ?depth, ?_, ?_, fun h4 => ?word⟩
  case depth =>
    rw [BitVec.extractLsb'_toNat, Nat.shiftRight_eq_div_pow, paramWord_toNat]
    change _ = txqDepth s
    omega
  case word => rw [paramWord, txqDepth, h4]; rfl
  all_goals
    apply extract_of_toNat
    rw [paramWord_toNat, BitVec.toNat_ofNat]
    omega

/-- Settles O12: the lifecycle state decides between the two outcomes. -/
theorem clkdivWriteSetsOrRaises : Obligations.ClkdivWriteSetsOrRaises := fun _ _ int frac _ =>
  ⟨fun hstop => congrArg Host.Outcome.next (setClkdiv_of_stopped hstop int frac),
    fun hrun => congrArg Host.Outcome.next (setClkdiv_of_running hrun int frac)⟩

/-- Settles O13: the three outcomes; the Engine is off while Stopped; and a Stopped block under the invariant is in IDLE, where the line is
at mark before and after. -/
theorem enableRunsOrRaises : Obligations.EnableRunsOrRaises := by
  intro s aa hi
  refine ⟨fun hrun => congrArg Host.Outcome.next (enable_of_running hrun),
    fun hstop hint => congrArg Host.Outcome.next (enable_of_int_zero hstop hint),
    fun hstop hint => congrArg Host.Outcome.next (enable_of_legal hstop hint),
    fun hstop => by rw [engineStep_eq, engineNext_of_stopped hstop],
    fun hinv hstop hint => ?_⟩
  obtain ⟨hq, hidle, hrp⟩ := hinv.stopped hstop
  exact ⟨_, congrArg Host.Outcome.next (enable_of_legal hstop hint), hq, hidle, hrp, dmxTx_idle hidle, dmxTx_idle hidle⟩

/-- Settles O16: each of the six meanings answers its state. -/
theorem ignoredWritesChangeNothing : Obligations.IgnoredWritesChangeNothing := fun _ _ _ _ _ =>
  ⟨rfl, rfl, rfl, rfl, rfl, rfl⟩

end Sys2Proof.Machine
end

section
/-! SUPPORT. The divider in time (R110, R111): the accumulator is a count modulo the divisor, and its carries are the ticks. -/

namespace Sys2Proof.Machine

/-- Settles O46: the two cases of the divider, and the bound. -/
theorem dividerStep : Obligations.DividerStep := by
  intro acc d hd h
  have hlt := divider_lt acc d hd h
  rcases divider_cases acc d h with ⟨hsum, htick, hacc⟩ | ⟨hsum, htick, hacc⟩
  · simp only [htick, hacc] at hlt ⊢
    exact ⟨by simpa using hsum, by omega, by simp, hlt⟩
  · simp only [htick, hacc] at hlt ⊢
    exact ⟨by simpa using hsum, by simp, by simp, hlt⟩

/-- A live block has a tick exactly when the sum reaches the divisor (R110). -/
theorem Live.tickNow_iff {s : State} (h : Live s) : tickNow s = true ↔ (d256 s).toNat ≤ s.acc.toNat + 256 := by
  obtain ⟨t, ht⟩ := step_next s
  rcases h.tick_cases ht with ⟨hsum, htick, _⟩ | ⟨hsum, htick, _⟩
  · simp [htick, hsum]
  · simp [htick, hsum]

/-- Tick or not, a cycle adds 256 to ACC modulo the divisor (R110). -/
theorem Live.step_acc_mod {s t : State} (h : Live s) (hstep : Machine.step s = .next t) :
    t.acc.toNat = (s.acc.toNat + 256) % (d256 s).toNat := by
  have hd : 256 ≤ (d256 s).toNat := h.inv.divisor_legal h.running
  have hlt := h.acc_lt
  rcases h.tick_cases hstep with ⟨hsum, _, hacc⟩ | ⟨hsum, _, hacc⟩
  · rw [hacc, Nat.mod_eq_sub_mod hsum, Nat.mod_eq_of_lt (by omega)]
  · rw [hacc, Nat.mod_eq_of_lt hsum]

/-- A live block stays live with its divisor, and `n` cycles add `256 n` to ACC modulo the divisor, whatever the Host does. -/
theorem Live.run_acc {s : State} (h : Live s) (n : Nat) :
    ∃ t, run n s = .next t ∧ Live t ∧ d256 t = d256 s ∧ t.acc.toNat = (s.acc.toNat + 256 * n) % (d256 s).toNat := by
  induction n generalizing s with
  | zero => exact ⟨s, rfl, h, rfl, (Nat.mod_eq_of_lt h.acc_lt).symm⟩
  | succ n ih =>
    obtain ⟨u, hu⟩ := step_next s
    obtain ⟨t, hrun, hlive, hdiv, hacc⟩ := ih (h.step hu)
    have hd : d256 u = d256 s := d256_congr (h.step_clkdiv hu)
    refine ⟨t, (run_succ hu n).trans hrun, hlive, hdiv.trans hd, ?_⟩
    rw [hacc, hd, h.step_acc_mod hu, Nat.mod_add_mod, Nat.mul_succ]
    congr 1
    omega

/-- A count in steps of 256 modulo `d` carries in step `n + 1` exactly when a multiple of `d` lies in `(256 n, 256 (n + 1)]` (R111). -/
theorem carry_iff_ceil {d : Nat} (hd : 0 < d) (n : Nat) :
    d ≤ 256 * n % d + 256 ↔ ∃ k : Nat, 1 ≤ k ∧ n + 1 = (k * d + 255) / 256 := by
  have hlt := Nat.mod_lt (256 * n) hd
  have hdiv := Nat.div_add_mod' (256 * n) d
  constructor
  · intro hcarry
    -- the multiple is the next one after `256 n`
    refine ⟨256 * n / d + 1, Nat.succ_pos _, ?_⟩
    rw [Nat.succ_mul]
    omega
  · rintro ⟨k, _, hk⟩
    have hquot : 256 * n / d < k := (Nat.div_lt_iff_lt_mul hd).mpr (by omega)
    have hnext : (256 * n / d + 1) * d ≤ k * d := Nat.mul_le_mul_right d hquot
    rw [Nat.succ_mul] at hnext
    omega

/-- Settles O47: ACC counts in steps of 256 modulo the divisor, and the carries of that count are the ticks. -/
theorem tickTimes : Obligations.TickTimes := by
  intro s hinv hnr hrun hacc n
  have hlive : Live s := ⟨hinv, hnr, hrun⟩
  have hpos : 0 < (d256 s).toNat := Nat.zero_lt_of_lt hlive.acc_lt
  obtain ⟨t, hreach, ht, hdiv, hcount⟩ := hlive.run_acc n
  rw [hacc, BitVec.toNat_ofNat, Nat.zero_mod, Nat.zero_add] at hcount
  refine ⟨t, hreach, ht.running, hdiv, hcount, ht.noReset, ?_⟩
  rw [ht.tickNow_iff, hdiv, hcount]
  exact carry_iff_ceil hpos n

end Sys2Proof.Machine
end

section
/-! SUPPORT. The canonical divisor (R113, R114) and the bind sequence (R121). -/

namespace Sys2Proof.Machine

/-! ### The canonical divisor -/

/-- `ClockOutOfRange` is a clock below the bit rate: no 32-bit clock has a divisor above `D256_MAX` (R113). -/
theorem divisorFor_eq (f : BitVec 32) :
    divisorFor f = if f.toNat < 250000 then none else some (BitVec.ofNat 32 (f.toNat * 256 / 250000) <<< 8) := by
  have hrange : (f.toNat * 256 / 250000 < 256 ∨ 0xFFFFFF < f.toNat * 256 / 250000) ↔ f.toNat < 250000 := by
    have := f.isLt
    omega
  simp only [divisorFor, Config.bitRate, Config.d256Min, Config.d256Max, hrange]

/-- A clock in range has the divisor of R113, of 1.0 or more, in bits 31:8 of the word. -/
theorem toNat_of_divisorFor {f : BitVec 32} {v : Word} (h : divisorFor f = some v) :
    256 ≤ f.toNat * 256 / 250000 ∧ v.toNat = f.toNat * 256 / 250000 * 256 := by
  rw [divisorFor_eq] at h
  split at h
  · cases h
  · have hf := f.isLt
    cases h
    rw [BitVec.toNat_shiftLeft, BitVec.toNat_ofNat, Nat.shiftLeft_eq]
    omega

/-- INT of the canonical word is the whole part of the divisor (R113). -/
theorem opInt_of_divisorFor {f : BitVec 32} {v : Word} (h : divisorFor f = some v) :
    (opInt v).toNat = f.toNat * 256 / 250000 / 256 := by
  have hf := f.isLt
  rw [opInt, BitVec.extractLsb'_toNat, Nat.shiftRight_eq_div_pow, (toNat_of_divisorFor h).2, Nat.mod_eq_of_lt (by omega)]
  omega

/-- FRAC of the canonical word is the divisor's number of 256ths (R113). -/
theorem opFrac_of_divisorFor {f : BitVec 32} {v : Word} (h : divisorFor f = some v) :
    (opFrac v).toNat = f.toNat * 256 / 250000 % 256 := by
  rw [opFrac, BitVec.extractLsb'_toNat, Nat.shiftRight_eq_div_pow, (toNat_of_divisorFor h).2,
    Nat.mul_div_cancel _ (Nat.two_pow_pos 8)]

/-- ENABLE accepts the canonical divisor (R113, R118). -/
theorem opInt_ne_zero_of_divisorFor {f : BitVec 32} {v : Word} (h : divisorFor f = some v) : opInt v ≠ 0#16 := by
  have hrange := (toNat_of_divisorFor h).1
  apply Laws.RoundTrip.ne_of_toNat_ne
  rw [opInt_of_divisorFor h, BitVec.toNat_ofNat]
  omega

/-- The canonical word has a zero byte below FRAC (R113). -/
theorem opBelowFrac_of_divisorFor {f : BitVec 32} {v : Word} (h : divisorFor f = some v) : opBelowFrac v = 0#8 := by
  apply extract_of_toNat
  rw [(toNat_of_divisorFor h).2, BitVec.toNat_ofNat]
  omega

/-- Settles O48: the clock's range, the word's number by fields, and the word at 125 MHz by evaluation. -/
theorem divisorForTheBitRate : Obligations.DivisorForTheBitRate := by
  refine ⟨fun f => by simp [divisorFor_eq], fun f v h => ⟨?_, opBelowFrac_of_divisorFor h, opInt_ne_zero_of_divisorFor h⟩,
    by decide⟩
  rw [opInt_of_divisorFor h, opFrac_of_divisorFor h, Nat.div_add_mod']

/-- Settles O49: `floor(F_SYS * 256 / 250000)` grows with the clock. -/
theorem divisorGrowsWithTheClock : Obligations.DivisorGrowsWithTheClock := by
  intro f g v w hlt hf hg
  rw [(toNat_of_divisorFor hf).2, (toNat_of_divisorFor hg).2]
  exact Nat.mul_le_mul_right _ (Nat.div_le_div_right (Nat.mul_le_mul_right _ hlt.le))

/-! ### The bind sequence -/

/-- A write line to a Stopped block does what the register map says of its register, and nothing else happens in its cycle (R32, R92). -/
theorem step_wrLine_of_stopped {s : State} {r : RegName} {v : Word} {rest : List HostLine} (hstop : s.running = false)
    (hhost : s.host = wrLine r v :: rest) :
    step s = .next (endCycle (writeEffect (beginCycle s) (r.offset.extractLsb' 2 5) v)) := by
  obtain ⟨t, h⟩ := step_next s
  have hbus : busIn s = { rst := false, haw := some (mkHaw true (r.offset.extractLsb' 2 5) (r.offset.extractLsb' 0 2) v) } := by
    rw [busIn, hhost]; rfl
  rw [h, step_write hbus (hawWr_mkHaw ..) h, engineNext_of_stopped hstop, execNext_write (hawWr_mkHaw ..), memWrite_hawAddr,
    hawReg_mkHaw, hawData_mkHaw]

/-- The block between the two accesses of the bind sequence: Stopped, with the divisor written and the ENABLE to come (R117, R121). -/
def divisorWrittenState (cfg : Config) (word : Word) : State :=
  { State.resetWith cfg with
    clkdiv := { int := opInt word, frac := opFrac word }, host := [wrLine .cmd 1#32], cycle := 1 }

/-- The block after the bind sequence: Running, with the divisor written, and otherwise as reset left it (R121). -/
def boundState (cfg : Config) (word : Word) : State :=
  { State.resetWith cfg with running := true, clkdiv := { int := opInt word, frac := opFrac word }, cycle := 2 }

/-- The two accesses of the bind sequence, with a divisor that ENABLE accepts (R117, R118, R121). -/
theorem run_bind (cfg : Config) {word : Word} (hint : opInt word ≠ 0#16) :
    run 2 (loadProgram [.wr (.name .clkdiv) word, .enable] (State.resetWith cfg)) = .next (boundState cfg word) := by
  have hwrite : step (loadProgram [.wr (.name .clkdiv) word, .enable] (State.resetWith cfg)) =
      .next (divisorWrittenState cfg word) :=
    step_wrLine_of_stopped (r := .clkdiv) rfl rfl
  have henable : step (divisorWrittenState cfg word) = .next
      (endCycle (writeEffect (beginCycle (divisorWrittenState cfg word)) 3#5 1#32)) :=
    step_wrLine_of_stopped (r := .cmd) rfl rfl
  have heffect : ∀ s, writeEffect s 3#5 1#32 = enable s := fun _ => rfl
  rw [run_succ hwrite, run_succ henable, heffect, enable_of_legal rfl hint]
  rfl

/-- STATUS after the bind sequence: RUNNING and TXQ_EMPTY, and no error (R34, R121). -/
theorem statusWord_boundState (cfg : Config) (word : Word) : statusWord (boundState cfg word) = 0x00000005#32 := by
  have hfull : txqFull (boundState cfg word) = false := by
    have hdepth := (txqDepth_bounds (boundState cfg word)).1
    rw [txqFull, beq_eq_false_iff_ne, show qLevel (boundState cfg word) = 0 from rfl]
    omega
  apply BitVec.eq_of_toNat_eq
  rw [statusWord_toNat, hfull]
  simp [boundState, State.resetWith, serBusy, txqEmpty, qLevel]

/-- The divisor of the bind sequence reads back as the word written (R116, R121). -/
theorem clkdivWord_boundState (cfg : Config) {word : Word} (h : opBelowFrac word = 0#8) :
    clkdivWord (boundState cfg word) = word := by
  have hfields := clkdiv_fields word
  rw [h] at hfields
  exact hfields

/-- Settles O50: a clock in range has a divisor that ENABLE accepts, and the two writes lead to the bound state. -/
theorem bindReachesRunning : Obligations.BindReachesRunning := by
  intro cfg p hp
  obtain ⟨word, hword, rfl⟩ := Option.map_eq_some_iff.mp hp
  refine ⟨boundState cfg word, run_bind cfg (opInt_ne_zero_of_divisorFor hword), rfl, rfl, ?_,
    statusWord_boundState cfg word, rfl, dmxTx_idle rfl⟩
  rw [clkdivWord_boundState cfg (opBelowFrac_of_divisorFor hword), hword]

end Sys2Proof.Machine
end

section
/-! SUPPORT. The queue, status and command accesses by their outcomes (R130 to R138). -/

namespace Sys2Proof.Machine

/-- Settles O6: each of the six meanings drives 0 on the read data. -/
theorem writeOnlyAndReservedReadsAnswerZero : Obligations.WriteOnlyAndReservedReadsAnswerZero := fun _ _ _ _ =>
  ⟨rfl, rfl, rfl, rfl, rfl, rfl⟩

/-- Settles O15: each of the three meanings raises ERR_CMD, in either lifecycle state. -/
theorem reservedCommandsRaise : Obligations.ReservedCommandsRaise := by
  rintro s aa hi code i (rfl | rfl | rfl)
  · exact congrArg Host.Outcome.next (raise_errCmd s)
  · exact congrArg Host.Outcome.next (raise_errCmd s)
  · exact congrArg Host.Outcome.next (raise_errCmd s)

/-- Settles O10: the lifecycle state decides first, then the level against the depth. -/
theorem pushEnqueuesOrRaises : Obligations.PushEnqueuesOrRaises := by
  intro s aa hi b
  have hexec : exec (.push aa hi b) s = .next (pushByte b s) := rfl
  rw [hexec]
  rcases pushByte_cases b s with ⟨hrun, he⟩ | ⟨hrun, hfull, he⟩ | ⟨hrun, hfree, he⟩
  · exact ⟨fun _ => congrArg Host.Outcome.next (he.trans (raise_errState s)), by simp [hrun], by simp [hrun]⟩
  · exact ⟨by simp [hrun], fun _ _ => congrArg Host.Outcome.next (he.trans (raise_errTxover s)),
      fun _ hne => absurd hfull hne⟩
  · exact ⟨by simp [hrun], fun _ heq => absurd heq hfree, fun _ _ => congrArg Host.Outcome.next he⟩

/-- Settles O11: each flag is kept exactly where its mask bit is 0. -/
theorem statusWriteClearsSelectedFlags : Obligations.StatusWriteClearsSelectedFlags := by
  intro s aa hi m lo
  have hkeep : ∀ flag bit : Bool, (flag && !bit) = if bit then false else flag := by decide
  rw [← hkeep, ← hkeep, ← hkeep, ← hkeep]
  rfl

/-! ### The STATUS word -/

theorem statusWord_getLsbD_rpend (s : State) : (statusWord s).getLsbD 4 = s.rpend := by
  apply getLsbD_of_toNat
  have := s.rpend.toNat_lt
  have := (serBusy s).toNat_lt
  have := (txqEmpty s).toNat_lt
  have := (txqFull s).toNat_lt
  have := s.running.toNat_lt
  rw [statusWord_toNat]
  omega

theorem statusWord_getLsbD_running (s : State) : (statusWord s).getLsbD 0 = s.running := by
  apply getLsbD_of_toNat
  have := s.running.toNat_lt
  rw [statusWord_toNat]
  omega

theorem txqEmpty_iff (s : State) : txqEmpty s = true ↔ s.txq = [] := by
  simp [txqEmpty, qLevel]

theorem txqFull_iff (s : State) : txqFull s = true ↔ qLevel s = txqDepth s := by
  simp [txqFull]

theorem serBusy_iff (s : State) : serBusy s = true ↔ s.phase ≠ phIdle ∨ s.rpend = true := by
  simp [serBusy]

theorem serBusy_eq_false_iff (s : State) : serBusy s = false ↔ s.phase = phIdle ∧ s.rpend = false := by
  simp [serBusy]

/-- Settles O7: the fields are read off the word's number. -/
theorem statusReadAnswersEveryField : Obligations.StatusReadAnswersEveryField := by
  intro s aa data
  have hcmd := s.errCmd.toNat_lt
  have hclk := s.errClk.toNat_lt
  have hstate := s.errState.toNat_lt
  have hover := s.errTxover.toNat_lt
  have hphase := s.phase.isLt
  have hrpend := s.rpend.toNat_lt
  have hbusy := (serBusy s).toNat_lt
  have hempty := (txqEmpty s).toNat_lt
  have hfull := (txqFull s).toNat_lt
  have hrun := s.running.toNat_lt
  refine ⟨statusWord s, rfl, ?top, ?_, ?_, ?_, ?_, ?phase, ?level, ?gap, statusWord_getLsbD_rpend s,
    by rw [statusWord_getLsbD_serBusy, serBusy_iff], by rw [statusWord_getLsbD_txqEmpty, txqEmpty_iff],
    by rw [statusWord_getLsbD_txqFull, txqFull_iff]; rfl, statusWord_getLsbD_running s⟩
  case top | gap =>
    apply extract_of_toNat
    rw [statusWord_toNat, BitVec.toNat_ofNat]
    omega
  case level =>
    apply extract_of_toNat
    rw [statusWord_toNat, BitVec.toNat_ofNat, ← qLevel]
    omega
  case phase =>
    apply extract_of_toNat
    rw [statusWord_toNat]
    omega
  all_goals
    apply getLsbD_of_toNat
    rw [statusWord_toNat]
    omega

/-- Settles O14: the lifecycle state decides; bits 4 and 3 of STATUS are RPEND and SER_BUSY. -/
theorem restartLatchesOrRaises : Obligations.RestartLatchesOrRaises := by
  intro s aa hi
  have hexec : exec (.cmdRestart aa hi) s = .next (restart s) := rfl
  rw [hexec, statusWord_getLsbD_rpend, statusWord_getLsbD_serBusy, serBusy_iff]
  rcases restart_cases s with ⟨hstop, he⟩ | ⟨hrun, he⟩
  · exact ⟨by simp [hstop], fun _ => congrArg Host.Outcome.next (he.trans (raise_errState s))⟩
  · exact ⟨fun _ => ⟨congrArg Host.Outcome.next he, rfl, .inr rfl⟩, by simp [hrun]⟩

end Sys2Proof.Machine
end

section
/-! SUPPORT. A cycle with no access (R140), and the wire at rest (R141). -/

namespace Sys2Proof.Machine

/-- After a no-access cycle the Host goes on to its next line, whatever the read data: the line of the cycle was no polling loop. -/
theorem hostAfter_of_noAccess {s : State} (h : busIn s = { rst := false, haw := none }) (v : Word) :
    hostAfter s.host v = s.host.tail := by
  unfold busIn at h
  split at h
  · next hl => rw [hl]; rfl
  · next hl => rw [hl]; rfl
  · cases h

/-- Settles O30: the cycle is the Engine's step, between the clearing of the read data and the end of the cycle. -/
theorem noAccessCycleIsTheEngineStep : Obligations.NoAccessCycleIsTheEngineStep := by
  intro s t hbus hstep
  have hidle := step_of_noWrite (s := s) (by rw [hbus]) (by simp [hbus])
  have hdata : busRdata s = 0#32 := by simp [busRdata, hbus]
  rw [hstep, hdata] at hidle
  refine ⟨engineNext s, engineStep_eq s, ?_⟩
  rw [Host.Outcome.next.inj hidle, endCycle, respond, engineNext_host, engineNext_cycle, hostAfter_of_noAccess hbus]

/-! ### RPEND over one cycle -/

/-- Out of reset, a cycle without a RESTART leaves RPEND as the Engine's step left it (R90, R136). -/
theorem step_rpend {s t : State} (hr : (busIn s).rst = false) (hnone : ¬ RestartPresented s) (h : step s = .next t) :
    t.rpend = (engineNext s).rpend := by
  rcases step_cases_engine_first h with ⟨hrst, _⟩ | ⟨_, v, rfl⟩ | ⟨w, hb, hw, rfl⟩
  · simp [hr] at hrst
  · rfl
  · rcases write_rpend hw (beginCycle (engineNext s)) with he | ⟨_, ⟨hreg, hcode⟩, _⟩
    · exact he
    · exact absurd ⟨w, by rw [hb], hw, hreg, hcode⟩ hnone

/-- A cycle that presents no PUSH accepts no byte. -/
theorem acceptedNow_of_noPush {s : State} (h : pushedNow s = []) : acceptedNow s = [] := by
  simp [acceptedNow, h]

/-! ### Rest -/

/-- At rest the Engine's step changes at most ACC (R141). -/
theorem State.atRest.engineNext {s : State} (h : s.atRest) (hr : (busIn s).rst = false) :
    ∃ acc, engineNext s = withAcc acc s := by
  obtain ⟨_, hidle, hrp, hq⟩ := h
  cases ht : tickNow s with
  | true => exact ⟨_, engineNext_at_rest ht hidle hrp hq⟩
  | false => exact engineNext_of_not_tickNow hr ht

/-- A cycle without reset, RESTART and PUSH keeps the wire at rest (R141). -/
theorem State.atRest.step {s t : State} (h : s.atRest) (hr : (busIn s).rst = false) (hnone : ¬ RestartPresented s)
    (hpush : pushedNow s = []) (hstep : step s = .next t) : t.atRest := by
  obtain ⟨acc, he⟩ := h.engineNext hr
  obtain ⟨hrun, hidle, hrp, hq⟩ := h
  refine ⟨(onlyEnableStartsOnlyResetStops s t hstep).2.1 hr hrun, ?_, ?_, ?_⟩
  · rw [(step_samePlace hr hstep).phase, he]; exact hidle
  · rw [step_rpend hr hnone hstep, he]; exact hrp
  · rw [step_txq hr hstep, acceptedNow_of_noPush hpush, he]; simpa using hq

/-- Settles O45: the three bits are RUNNING, TXQ_EMPTY and SER_BUSY; in IDLE the line is at mark; and rest is kept. -/
theorem restIsVisibleAndStable : Obligations.RestIsVisibleAndStable := by
  intro s _
  refine ⟨?_, fun hrest => ⟨dmxTx_idle hrest.2.1, fun t hstep hr hnone hpush => hrest.step hr ?_ hpush hstep⟩⟩
  · rw [statusWord_getLsbD_running, statusWord_getLsbD_txqEmpty, statusWord_getLsbD_serBusy, txqEmpty_iff,
      serBusy_eq_false_iff]
    exact ⟨fun ⟨hrun, hidle, hrp, hq⟩ => ⟨hrun, hq, hidle, hrp⟩, fun ⟨hrun, hq, hidle, hrp⟩ => ⟨hrun, hidle, hrp, hq⟩⟩
  · rintro ⟨w, hw, hwr, hreg, hcode⟩
    exact hnone w _ _ hw (decodeHaw_cmdRestart_of hwr hreg hcode)

end Sys2Proof.Machine
end

section
/-! SUPPORT. What the Engine still has to start (R93): it starts what is asked of it, in order, and nothing else (R106, R148). -/

namespace Sys2Proof.Machine

/-- What the dispatches to come start if nothing more is asked: a pending break, then the characters of the queue (R93). -/
def toStart (s : State) : List Started := (if s.rpend then [.brk] else []) ++ s.txq.map .char

/-- Off the dispatch points a tick does not look at RPEND (R95 to R99, R101). -/
theorem tickNext_rpend_off_dispatch {s : State} (hd : atDispatchPoint s = false) : (tickNext s).rpend = s.rpend := by
  rcases tickNext_cases_off_dispatch hd with ⟨_, _, he⟩ | ⟨_, _, he⟩ | ⟨_, _, he⟩ | ⟨_, he⟩ | ⟨_, _, he⟩ | ⟨_, _, he⟩ |
    ⟨_, he⟩ | ⟨_, he⟩ <;> rw [he]
  exact badPhaseStop_rpend s

/-- Off the dispatch points a tick leaves what is to be started as it is. -/
theorem toStart_tickNext_off_dispatch {s : State} (hd : atDispatchPoint s = false) : toStart (tickNext s) = toStart s := by
  rw [toStart, toStart, tickNext_rpend_off_dispatch hd, tickNext_txq, hd]
  rfl

/-- What a dispatch starts: a pending break first, else the head of the queue (R93). -/
def dispatchStarts (s : State) : List Started := if s.rpend then [.brk] else (s.txq.take 1).map .char

/-- A dispatch starts the first of what is to be started, and leaves the rest (R93). -/
theorem dispatchStarts_append (s : State) : dispatchStarts s ++ toStart (dispatch s) = toStart s := by
  rcases dispatch_cases s with ⟨hrp, he⟩ | ⟨b, rest, hrp, hq, he⟩ | ⟨hrp, hq, he⟩
  · simp [dispatchStarts, toStart, he, hrp]
  · simp [dispatchStarts, toStart, he, hrp, hq]
  · simp [dispatchStarts, toStart, he, hrp, hq]

/-- Out of reset, the Engine's step starts the first of what is to be started, or nothing (R93). -/
theorem startedNow_append_engineNext {s : State} (hr : (busIn s).rst = false) :
    startedNow s ++ toStart (engineNext s) = toStart s := by
  cases ht : tickNow s with
  | false =>
    obtain ⟨acc, he⟩ := engineNext_of_not_tickNow hr ht
    have hnone : startedNow s = [] := by simp [startedNow, ht]
    rw [hnone, he]
    rfl
  | true =>
    cases hd : atDispatchPoint s with
    | false =>
      have hnone : startedNow s = [] := by simp [startedNow, hd]
      rw [hnone, engineNext_of_tickNow ht, toStart_tickNext_off_dispatch (s := withAcc (divider s.acc (d256 s)).2 s) hd]
      rfl
    | true =>
      have hstarts : startedNow s = dispatchStarts s := by simp [startedNow, dispatchStarts, ht, hd]
      rw [hstarts, engineNext_of_dispatch ht hd]
      exact dispatchStarts_append (withAcc (divider s.acc (d256 s)).2 s)

/-- The account of one cycle without reset and RESTART: what was to be started and the character accepted are what the cycle starts and
what stays to be started (R93, R106). -/
theorem start_account_step {s t : State} (hr : (busIn s).rst = false) (hnone : ¬ RestartPresented s) (h : step s = .next t) :
    toStart s ++ (acceptedNow s).map .char = startedNow s ++ toStart t := by
  have ht : toStart t = toStart (engineNext s) ++ (acceptedNow s).map .char := by
    rw [toStart, step_rpend hr hnone h, step_txq hr h, List.map_append, ← List.append_assoc, ← toStart]
  rw [ht, ← List.append_assoc, startedNow_append_engineNext hr]

end Sys2Proof.Machine
end

section
/-! SUPPORT. The work left to the Engine: how many ticks at most until the wire is at rest, if nothing more is asked (R108, R141). -/

namespace Sys2Proof.Machine

/-- A bound on the ticks until rest: those to the next dispatch, 96 and the dispatch for a pending break, 11 and the dispatch for each
character queued, and the dispatch that ends in IDLE (R82, R83, R93). -/
def workLeft (s : State) : Nat :=
  ticksToDispatch s + (if s.rpend then 97 else 0) + 12 * s.txq.length + (if s.phase = phIdle then 0 else 1)

/-- Without ticks to go, the state is at a dispatch point. -/
theorem atDispatchPoint_of_no_ticks {s : State} (hinv : s.Inv) (h : ticksToDispatch s = 0) : atDispatchPoint s = true := by
  rw [atDispatchPoint_iff]
  rcases phase_cases s.phase with hp | hp | hp | hp | hp | hp | hp | hp
  · exact .inl hp
  · rw [ticksToDispatch_break hp] at h; omega
  · rw [ticksToDispatch_mab hp] at h; exact .inr (.inl ⟨hp, BitVec.eq_of_toNat_eq h⟩)
  · rw [ticksToDispatch_start hp] at h; omega
  · have := hinv.data_cnt hp
    rw [ticksToDispatch_data hp] at h; omega
  · rw [ticksToDispatch_stop1 hp] at h; omega
  · exact .inr (.inr hp)
  · have := hinv.phase_le
    omega

/-- A tick before the next dispatch point takes one off the work (R95 to R99). -/
theorem workLeft_tickNext_off_dispatch {s : State} (hinv : s.Inv) (h : 0 < ticksToDispatch s) :
    workLeft (tickNext s) < workLeft s := by
  have hoff := off_dispatch_of_ticksToDispatch h
  have hticks := ticksToDispatch_tickNext hinv h
  have hbusy : s.phase ≠ phIdle := fun hp => by rw [ticksToDispatch_idle hp] at h; omega
  have hq : (tickNext s).txq = s.txq := by rw [tickNext_txq, hoff]; rfl
  have hlast : (if (tickNext s).phase = phIdle then 0 else 1) ≤ 1 := by split <;> decide
  rw [workLeft, workLeft, tickNext_rpend_off_dispatch hoff, hq, if_neg hbusy]
  omega

/-- A dispatch takes up some of the work, if there is any (R93). -/
theorem workLeft_dispatch {s : State} (hd : atDispatchPoint s = true) (h : 0 < workLeft s) :
    workLeft (dispatch s) < workLeft s := by
  have hticks := ticksToDispatch_of_dispatchPoint hd
  unfold workLeft at h ⊢
  rcases dispatch_cases s with ⟨hrp, he⟩ | ⟨b, rest, hrp, hq, he⟩ | ⟨hrp, hq, he⟩ <;> rw [he]
  · rw [ticksToDispatch_break rfl, hrp]
    change 95 + 0 + 12 * s.txq.length + 1 < _ + 97 + _ + _
    omega
  · rw [ticksToDispatch_start rfl, hrp, hq, List.length_cons]
    change 10 + 0 + 12 * rest.length + 1 < _
    omega
  · rw [hticks, hrp, hq] at h
    rw [ticksToDispatch_idle rfl, hticks, hrp, hq]
    exact h

/-- A tick takes something off the work, if there is any. -/
theorem workLeft_tickNext {s : State} (hinv : s.Inv) (h : 0 < workLeft s) : workLeft (tickNext s) < workLeft s := by
  rcases Nat.eq_zero_or_pos (ticksToDispatch s) with h0 | hpos
  · have hd := atDispatchPoint_of_no_ticks hinv h0
    rw [tickNext_of_dispatchPoint hd]
    exact workLeft_dispatch hd h
  · exact workLeft_tickNext_off_dispatch hinv hpos

/-- With no work left, the Timing Program is in IDLE, with nothing to start (R141). -/
theorem at_rest_of_workLeft_zero {s : State} (h : workLeft s = 0) : s.phase = phIdle ∧ s.rpend = false ∧ s.txq = [] := by
  unfold workLeft at h
  refine ⟨?_, ?_, ?_⟩
  · by_contra hp
    simp [hp] at h
  · by_contra hrp
    simp [hrp] at h
  · rw [← List.length_eq_zero_iff]
    omega

end Sys2Proof.Machine
end

section
/-! SUPPORT. Stretches of cycles without a model fault: what they accept and what the Engine starts in them; and the cycles in which the
Host reads or makes no access. -/

namespace Sys2Proof.Machine

/-! ### The account of a stretch -/

/-- Some cycles lead from `s` to `t` without a model fault: they accept `bytes`, and what was to be started and then `asked` is what the
Engine starts in them and then what stays to be started. -/
def Transmits (s : State) (asked : List Started) (bytes : List Byte) (t : State) : Prop :=
  ∃ n, run n s = .next t ∧ acceptedTrace n s = bytes ∧ startedTrace n s ++ toStart t = toStart s ++ asked ∧
    t.ledger = s.ledger

theorem Transmits.refl (s : State) : Transmits s [] [] s := ⟨0, rfl, rfl, (List.append_nil _).symm, rfl⟩

theorem Transmits.trans {s t u : State} {asked asked' : List Started} {bytes bytes' : List Byte}
    (h : Transmits s asked bytes t) (h' : Transmits t asked' bytes' u) :
    Transmits s (asked ++ asked') (bytes ++ bytes') u := by
  obtain ⟨m, hrun, hacc, hstart, hl⟩ := h
  obtain ⟨n, hrun', hacc', hstart', hl'⟩ := h'
  refine ⟨m + n, by rw [run_add, hrun, andThen_next, hrun'], ?_, ?_, hl'.trans hl⟩
  · rw [acceptedTrace, traceOf_add _ hrun, List.flatten_append, ← acceptedTrace, ← acceptedTrace, hacc, hacc']
  · rw [startedTrace, traceOf_add _ hrun, List.flatten_append, ← startedTrace, ← startedTrace, List.append_assoc, hstart',
      ← List.append_assoc, hstart, List.append_assoc]

/-- One cycle, from its own account. -/
theorem Transmits.of_step {s t : State} {asked : List Started} (hstep : step s = .next t)
    (hstart : startedNow s ++ toStart t = toStart s ++ asked) (hl : t.ledger = s.ledger) :
    Transmits s asked (acceptedNow s) t :=
  ⟨1, run_succ hstep 0, by simp [acceptedTrace, traceOf_succ _ hstep], by simpa [startedTrace, traceOf_succ _ hstep] using hstart,
    hl⟩

/-! ### What the polling loops wait for -/

theorem met_notFull_iff (s : State) : WaitCond.notFull.met (statusWord s) = true ↔ qLevel s ≠ txqDepth s := by
  rw [WaitCond.met, statusWord_getLsbD_txqFull, Bool.not_eq_true', ← Bool.not_eq_true, txqFull_iff]

theorem met_empty_iff (s : State) : WaitCond.empty.met (statusWord s) = true ↔ s.txq = [] := by
  rw [WaitCond.met, statusWord_getLsbD_txqEmpty, txqEmpty_iff]

theorem met_done_iff (s : State) :
    WaitCond.done.met (statusWord s) = true ↔ s.txq = [] ∧ s.phase = phIdle ∧ s.rpend = false := by
  rw [WaitCond.met, statusWord_getLsbD_txqEmpty, statusWord_getLsbD_serBusy, Bool.and_eq_true_iff, txqEmpty_iff,
    Bool.not_eq_true', serBusy_eq_false_iff]

/-- A Running block is at rest exactly when `waitdone` is over (R80, R141). -/
theorem met_done_iff_atRest {s : State} (hrun : s.running = true) :
    WaitCond.done.met (statusWord s) = true ↔ s.atRest := by
  rw [met_done_iff]
  exact ⟨fun ⟨hq, hp, hrp⟩ => ⟨hrun, hp, hrp, hq⟩, fun ⟨_, hp, hrp, hq⟩ => ⟨hq, hp, hrp⟩⟩

/-- With no work left, every polling loop is over. -/
theorem met_of_workLeft_zero {s : State} (h : workLeft s = 0) (c : WaitCond) : c.met (statusWord s) = true := by
  obtain ⟨hp, hrp, hq⟩ := at_rest_of_workLeft_zero h
  cases c with
  | notFull =>
    have := (txqDepth_bounds s).1
    rw [met_notFull_iff, qLevel, hq, List.length_nil]
    omega
  | empty => exact (met_empty_iff s).mpr hq
  | done => exact (met_done_iff s).mpr ⟨hq, hp, hrp⟩

/-! ### Cycles without a write -/

/-- The Host writes nothing in this cycle: it reads, or makes no access. -/
def NoWrite (s : State) : Prop := ∀ w, (busIn s).haw = some w → hawWr w = false

theorem NoWrite.pushedNow_eq {s : State} (h : NoWrite s) : pushedNow s = [] := by
  unfold pushedNow
  split
  · rfl
  · cases hw : (busIn s).haw with
    | none => rfl
    | some w => simp [h w hw]

theorem NoWrite.not_restartPresented {s : State} (h : NoWrite s) : ¬ RestartPresented s := by
  rintro ⟨w, hw, hwr, _⟩
  exact absurd (h w hw) (by simp [hwr])

/-- Nothing is still to be started behind a pending break but the characters queued: the break is not the last of it. -/
def BreakIsNotLast (s : State) : Prop := (toStart s).getLast? ≠ some .brk

/-- With the queue empty, a break that is not the last is not pending. -/
theorem BreakIsNotLast.rpend_eq {s : State} (h : BreakIsNotLast s) (hq : s.txq = []) : s.rpend = false := by
  by_contra hrp
  exact h (by simp [toStart, hq, hrp])

/-- `t` comes after `s` by cycles without reset and write: they accept nothing and ask the Engine for nothing, and what a polling loop
waits for stays when it has come about. -/
structure Waits (s t : State) : Prop where
  live : Live t
  transmits : Transmits s [] [] t
  met : ∀ c : WaitCond, c.met (statusWord s) = true → c.met (statusWord t) = true
  breakIsNotLast : BreakIsNotLast s → BreakIsNotLast t

theorem Waits.refl {s : State} (h : Live s) : Waits s s := ⟨h, .refl s, fun _ => id, id⟩

theorem Waits.trans {s t u : State} (h : Waits s t) (h' : Waits t u) : Waits s u :=
  ⟨h'.live, h.transmits.trans h'.transmits, fun c hc => h'.met c (h.met c hc), fun hb => h'.breakIsNotLast (h.breakIsNotLast hb)⟩

/-- A cycle without a write takes from the queue what the Engine takes (R56, R93). -/
theorem step_txq_length_le {s t : State} (hr : (busIn s).rst = false) (hnw : NoWrite s) (hstep : step s = .next t) :
    t.txq.length ≤ s.txq.length := by
  rw [step_txq hr hstep, acceptedNow_of_noPush hnw.pushedNow_eq, List.append_nil, engineNext_txq hr, List.length_drop]
  exact Nat.sub_le _ _

/-- One cycle without a write. -/
theorem Live.step_waits {s t : State} (h : Live s) (hnw : NoWrite s) (hstep : Machine.step s = .next t) : Waits s t := by
  have hr := h.noReset.busIn_rst
  have hacc : acceptedNow s = [] := acceptedNow_of_noPush hnw.pushedNow_eq
  have haccount := start_account_step hr hnw.not_restartPresented hstep
  have hlen := step_txq_length_le hr hnw hstep
  have hledger : t.ledger = s.ledger := by
    have ht := step_of_noWrite hr hnw
    rw [hstep] at ht
    rw [Host.Outcome.next.inj ht]
    exact engineNext_ledger h.inv.phase_le
  refine ⟨h.step hstep, ?_, fun c hc => ?_, fun hb ht => hb ?_⟩
  · rw [← hacc]
    exact .of_step hstep (by simpa [hacc] using haccount.symm) hledger
  · cases c with
    | notFull =>
      have hle := h.inv.level_le
      have hdepth : txqDepth t = txqDepth s := txqDepth_congr (parametersNeverChange s t hstep)
      rw [met_notFull_iff, qLevel] at hc ⊢
      rw [qLevel] at hle
      omega
    | empty =>
      rw [met_empty_iff] at hc ⊢
      simpa [hc] using hlen
    | done =>
      rw [met_done_iff_atRest h.running] at hc
      rw [met_done_iff_atRest (h.step hstep).running]
      exact hc.step hr hnw.not_restartPresented hnw.pushedNow_eq hstep
  · have hwhole : toStart s = startedNow s ++ toStart t := by simpa [hacc] using haccount
    rw [hwhole, List.getLast?_append, ht]
    rfl

/-! ### The end of a wait -/

/-- A bound on the time to rest, in units of the accumulator: the work left at one divisor each, and the rest of this tick interval
(R110). -/
def timeLeft (s : State) : Nat := workLeft s * (d256 s).toNat + ((d256 s).toNat - s.acc.toNat)

/-- As long as work is left, a cycle without a write brings rest nearer. -/
theorem Live.timeLeft_step {s t : State} (h : Live s) (hnw : NoWrite s) (hwork : 0 < workLeft s)
    (hstep : Machine.step s = .next t) : timeLeft t < timeLeft s := by
  have hr := h.noReset.busIn_rst
  have hd : d256 t = d256 s := d256_congr (h.step_clkdiv hstep)
  have hlt := h.acc_lt
  have ht : workLeft t = workLeft (engineNext s) := by
    have ht := step_of_noWrite hr hnw
    rw [hstep] at ht
    rw [Host.Outcome.next.inj ht]
    rfl
  unfold timeLeft
  rw [hd, ht]
  rcases h.tick_cases hstep with ⟨_, htick, _⟩ | ⟨_, htick, hacc⟩
  · have hless : workLeft (engineNext s) + 1 ≤ workLeft s := by
      rw [engineNext_of_tickNow htick]
      exact workLeft_tickNext (divider_inv h.inv h.running) hwork
    have hmul := Nat.mul_le_mul_right (d256 s).toNat hless
    rw [Nat.succ_mul] at hmul
    omega
  · obtain ⟨acc, he⟩ := engineNext_of_not_tickNow hr htick
    have hsame : workLeft (engineNext s) = workLeft s := by rw [he]; rfl
    rw [hsame]
    omega

/-- A polling loop reads. -/
theorem noWrite_of_poll {s : State} {c : WaitCond} {rest : List HostLine} (h : s.host = .poll c :: rest) : NoWrite s := by
  intro w hw
  rw [busIn, h] at hw
  cases hw
  decide

/-- A no-access line makes no access. -/
theorem noWrite_of_idle {s : State} {rest : List HostLine} (h : s.host = idleLine :: rest) : NoWrite s := by
  intro w hw
  rw [busIn, h] at hw
  cases hw

/-- Every polling loop comes to its end, with its condition met: at the latest at rest (R80). -/
theorem Live.poll_ends {s : State} {c : WaitCond} {rest : List HostLine} (h : Live s) (hhost : s.host = .poll c :: rest) :
    ∃ t, Waits s t ∧ t.host = rest ∧ c.met (statusWord t) = true := by
  induction hm : timeLeft s using Nat.strong_induction_on generalizing s with
  | _ m ih =>
    obtain ⟨t, hstep⟩ := step_next s
    have hnw := noWrite_of_poll hhost
    have hwait := h.step_waits hnw hstep
    have hnext : t.host = if c.met (statusWord s) then rest else .poll c :: rest := by
      rw [step_host hstep, readDataIsOfTheCycleStart s t hstep, busRdata_poll hhost, hhost, hostAfter]
    cases hmet : c.met (statusWord s) with
    | true => exact ⟨t, hwait, by rw [hnext, hmet, if_pos rfl], hwait.met c hmet⟩
    | false =>
      have hwork : 0 < workLeft s := Nat.pos_of_ne_zero fun h0 => by simp [met_of_workLeft_zero h0] at hmet
      obtain ⟨u, hrest, hhostu, hmetu⟩ := ih _ (hm ▸ h.timeLeft_step hnw hwork hstep) hwait.live (by simp [hnext, hmet]) rfl
      exact ⟨u, hwait.trans hrest, hhostu, hmetu⟩

/-- No-access lines pass. -/
theorem Live.idles_pass {s : State} {l rest : List HostLine} (h : Live s) (hhost : s.host = l ++ rest)
    (hidle : ∀ x ∈ l, x = idleLine) : ∃ t, Waits s t ∧ t.host = rest := by
  induction l generalizing s with
  | nil => exact ⟨s, .refl h, hhost⟩
  | cons x l ih =>
    obtain ⟨rfl, hl⟩ := List.forall_mem_cons.mp hidle
    obtain ⟨t, hstep⟩ := step_next s
    have hwait := h.step_waits (noWrite_of_idle hhost) hstep
    obtain ⟨u, hrest, hhostu⟩ := ih hwait.live (by rw [step_host hstep, hhost]; rfl) hl
    exact ⟨u, hwait.trans hrest, hhostu⟩

end Sys2Proof.Machine
end

section
/-! SUPPORT. The universe sequence (R146, R148): its lines one after the other, with no-access cycles around them. -/

namespace Sys2Proof.Machine

/-! ### The lines, and the no-access cycles around them -/

/-- The lines but for the no-access lines. -/
def paced (l : List HostLine) : List HostLine := l.filter fun x => decide (x ≠ idleLine)

/-- The lines of the universe sequence, with a polling loop of either kind last (R80, R146). -/
def universeLines (channels : List Byte) (c : WaitCond) : List HostLine :=
  wrLine .cmd 2#32 :: (assemble ((0#8 :: channels).map .pushw) ++ [.poll c])

theorem assemble_append (p q : List AsmLine) : assemble (p ++ q) = assemble p ++ assemble q := List.flatMap_append

/-- The lines of the sequence neither assert reset nor are no-access lines. -/
theorem universeLines_spec {channels : List Byte} {c : WaitCond} {l : HostLine} (h : l ∈ universeLines channels c) :
    l.noReset = true ∧ l ≠ idleLine := by
  simp only [universeLines, assemble, List.flatMap_map, List.mem_cons, List.mem_append, List.mem_flatMap, List.not_mem_nil,
    or_false] at h
  rcases h with rfl | ⟨b, _, hb⟩ | rfl
  · exact ⟨rfl, nofun⟩
  · simp only [assembleLine, List.mem_cons, List.not_mem_nil, or_false] at hb
    rcases hb with rfl | rfl
    · exact ⟨rfl, nofun⟩
    · exact ⟨rfl, nofun⟩
  · exact ⟨rfl, nofun⟩

/-- Without no-access lines, the lines are the sequence themselves. -/
theorem paced_universeLines (channels : List Byte) (c : WaitCond) :
    paced (universeLines channels c) = universeLines channels c :=
  List.filter_eq_self.mpr fun _ hl => decide_eq_true (universeLines_spec hl).2

/-- With the lines of the sequence and no-access lines pending, no reset is. -/
theorem noReset_of_paced {s : State} {channels : List Byte} {c : WaitCond} (h : paced s.host = universeLines channels c) :
    s.noReset := by
  intro l hl
  by_cases hidle : l = idleLine
  · rw [hidle]; rfl
  · have hmem : l ∈ paced s.host := List.mem_filter.mpr ⟨hl, decide_eq_true hidle⟩
    exact (universeLines_spec (h ▸ hmem)).1

/-- After the no-access lines comes the next line of the sequence. -/
theorem Live.next_line {s : State} {x : HostLine} {more : List HostLine} (h : Live s) (hp : paced s.host = x :: more) :
    ∃ t rest, Waits s t ∧ t.host = x :: rest ∧ paced rest = more := by
  obtain ⟨l, rest, hhost, hidle, _, hrest⟩ := List.filter_eq_cons_iff.mp hp
  obtain ⟨t, hwait, ht⟩ := h.idles_pass hhost (fun y hy => by simpa using hidle y hy)
  exact ⟨t, rest, hwait, ht, hrest⟩

/-- After the last line the no-access lines run out. -/
theorem Live.last_lines {s : State} (h : Live s) (hp : paced s.host = []) : ∃ t, Waits s t ∧ t.host = [] := by
  refine h.idles_pass (List.append_nil _).symm fun y hy => ?_
  simpa using List.filter_eq_nil_iff.mp hp y hy

/-! ### The accesses of the sequence -/

/-- A RESTART at rest asks the Engine for a break (R136). -/
theorem Live.restart_transmits {s : State} {rest : List HostLine} (h : Live s) (hrest : s.atRest)
    (hhost : s.host = wrLine .cmd 2#32 :: rest) : ∃ t, Live t ∧ Transmits s [.brk] [] t ∧ t.host = rest := by
  obtain ⟨w, hline, hdec⟩ := pseudoInstructionsAssemble.2.2.2.1
  have hbus : busIn s = { rst := false, haw := some w } := by rw [busIn, hhost, List.singleton_inj.mp hline]
  obtain ⟨t, hstep⟩ := step_next s
  have hr := h.noReset.busIn_rst
  obtain ⟨acc, he⟩ := hrest.engineNext hr
  obtain ⟨_, hidle, hrp, hq⟩ := hrest
  have ht := step_restart hbus hdec h.running hstep
  rw [he] at ht
  have hacc : acceptedNow s = [] := by
    obtain ⟨hw, hreg, _⟩ := decodeHaw_cmdRestart hdec
    exact acceptedNow_of_noPush (by simp [pushedNow, hbus, hw, hreg])
  have hstart : startedNow s = [] := by simp [startedNow, hrp, hq]
  refine ⟨t, h.step hstep, ?_, by rw [step_host hstep, hhost]; rfl⟩
  rw [← hacc]
  refine .of_step hstep ?_ (by rw [ht]; rfl)
  rw [hstart, ht]
  simp [toStart, hrp, hq]

/-- A PUSH into a queue that is not full is accepted, and asks the Engine for its character (R130). -/
theorem Live.push_transmits {s : State} {b : Byte} {rest : List HostLine} (h : Live s)
    (hroom : WaitCond.notFull.met (statusWord s) = true) (hhost : s.host = pushLine b :: rest) :
    ∃ t, Live t ∧ Transmits s [.char b] [b] t ∧ BreakIsNotLast t ∧ t.host = rest := by
  obtain ⟨w, hline, hdec⟩ := pseudoInstructionsAssemble.1 b
  have hbus : busIn s = { rst := false, haw := some w } := by rw [busIn, hhost, List.singleton_inj.mp hline]
  obtain ⟨t, hstep⟩ := step_next s
  have hr := h.noReset.busIn_rst
  have hdreq : dreq s = true :=
    (dreq_iff s).mpr ⟨h.running, lt_of_le_of_ne h.inv.level_le ((met_notFull_iff s).mp hroom)⟩
  obtain ⟨hacc, ⟨q, hq, _⟩, _, _, hledger⟩ := (pushUnderDreqIsAccepted s t w _ _ b h.inv hbus hdec).2 hdreq hstep
  have hnone : ¬ RestartPresented s := by
    rintro ⟨v, hv, _, hreg, _⟩
    obtain rfl : w = v := by simpa [hbus] using hv
    exact absurd ((decodeHaw_push hdec).2.1.symm.trans hreg) (by decide)
  have haccount := start_account_step hr hnone hstep
  refine ⟨t, h.step hstep, ?_, ?_, by rw [step_host hstep, hhost]; rfl⟩
  · rw [← hacc]
    exact .of_step hstep (by rw [← haccount, hacc]; rfl) hledger
  · simp [BreakIsNotLast, toStart, hq, List.getLast?_append]

/-- `waitnf` and a PUSH, at any pace (R80). -/
theorem Live.pushw_transmits {s : State} {b : Byte} {more : List HostLine} (h : Live s)
    (hp : paced s.host = .poll .notFull :: pushLine b :: more) :
    ∃ t, Live t ∧ Transmits s [.char b] [b] t ∧ BreakIsNotLast t ∧ paced t.host = more := by
  obtain ⟨t1, rest1, hwait1, hhost1, hp1⟩ := h.next_line hp
  obtain ⟨t2, hwait2, hhost2, hroom⟩ := hwait1.live.poll_ends hhost1
  obtain ⟨t3, rest3, hwait3, hhost3, hp3⟩ := hwait2.live.next_line (hhost2 ▸ hp1)
  obtain ⟨t, hlive, hpush, hlast, hhost⟩ := hwait3.live.push_transmits (hwait3.met _ hroom) hhost3
  exact ⟨t, hlive, ((hwait1.trans hwait2).trans hwait3).transmits.trans hpush, hlast, hhost ▸ hp3⟩

/-- Any number of them, by induction on the bytes. -/
theorem Live.pushws_transmit {s : State} {bytes : List Byte} {more : List HostLine} (h : Live s)
    (hp : paced s.host = assemble (bytes.map .pushw) ++ more) :
    ∃ t, Live t ∧ Transmits s (bytes.map .char) bytes t ∧ (BreakIsNotLast s → BreakIsNotLast t) ∧ paced t.host = more := by
  induction bytes generalizing s with
  | nil => exact ⟨s, h, .refl s, id, hp⟩
  | cons b bytes ih =>
    obtain ⟨u, hlive, hpush, hlast, hpu⟩ := h.pushw_transmits hp
    obtain ⟨t, hlivet, hrest, hkeep, hpt⟩ := ih hlive hpu
    exact ⟨t, hlivet, hpush.trans hrest, fun _ => hkeep hlast, hpt⟩

/-! ### The whole sequence -/

/-- From rest, the sequence comes to its end at any pace: the Engine is asked for a break and then the characters, and the last polling
loop has its condition met (R146, R148). -/
theorem universe_transmits {s : State} {channels : List Byte} {c : WaitCond} (hinv : s.Inv) (hrest : s.atRest)
    (hp : paced s.host = universeLines channels c) :
    ∃ t, Live t ∧ Transmits s (.brk :: (0#8 :: channels).map .char) (0#8 :: channels) t ∧ BreakIsNotLast t ∧ t.host = [] ∧
      c.met (statusWord t) = true := by
  have hlive : Live s := ⟨hinv, noReset_of_paced hp, hrest.1⟩
  -- the RESTART, still at rest
  obtain ⟨t1, rest1, hwait1, hhost1, hp1⟩ := hlive.next_line hp
  have hrest1 : t1.atRest :=
    (met_done_iff_atRest hwait1.live.running).mp (hwait1.met _ ((met_done_iff_atRest hlive.running).mpr hrest))
  obtain ⟨t2, hlive2, hbreak, hhost2⟩ := hwait1.live.restart_transmits hrest1 hhost1
  -- the start code, then the channels
  obtain ⟨t3, hlive3, hcode, hlast3, hp3⟩ := hlive2.pushw_transmits (hhost2 ▸ hp1)
  obtain ⟨t4, hlive4, hchannels, hlast4, hp4⟩ := hlive3.pushws_transmit hp3
  -- the wait at the end
  obtain ⟨t5, rest5, hwait5, hhost5, hp5⟩ := hlive4.next_line hp4
  obtain ⟨t6, hwait6, hhost6, hmet⟩ := hwait5.live.poll_ends hhost5
  obtain ⟨t, hwait, hhost⟩ := hwait6.live.last_lines (hhost6 ▸ hp5)
  have hend := (hwait5.trans hwait6).trans hwait
  refine ⟨t, hend.live, ?_, hend.breakIsNotLast (hlast4 hlast3), hhost, hwait.met c hmet⟩
  have hframe := (((hwait1.transmits.trans hbreak).trans hcode).trans hchannels).trans hend.transmits
  simpa using hframe

/-- With nothing to be started before and after a stretch, the Engine starts in it exactly what it is asked for. -/
theorem Transmits.started_eq {s t : State} {asked : List Started} {bytes : List Byte} (h : Transmits s asked bytes t)
    (hs : s.txq = [] ∧ s.rpend = false) (ht : t.txq = [] ∧ t.rpend = false) :
    ∃ n, run n s = .next t ∧ t.ledger = s.ledger ∧ acceptedTrace n s = bytes ∧ startedTrace n s = asked := by
  obtain ⟨n, hrun, hacc, hstart, hl⟩ := h
  exact ⟨n, hrun, hl, hacc, by simpa [toStart, hs, ht] using hstart⟩

/-- Settles O60: `waitempty` ends with the queue empty, and no restart pending, since the break is not the last that was asked for. -/
theorem universeSequenceAtAnyPace : Obligations.UniverseSequenceAtAnyPace := by
  intro s channels hinv hrest hhost
  have hp : paced s.host = universeLines channels .empty := by
    rw [paced, hhost]
    exact congrArg (wrLine .cmd 2#32 :: ·) (assemble_append ((0#8 :: channels).map .pushw) [.waitempty])
  obtain ⟨t, hlive, hframe, hlast, hend, hmet⟩ := universe_transmits hinv hrest hp
  obtain ⟨_, _, hrp, hq⟩ := hrest
  have hqt : t.txq = [] := (met_empty_iff t).mp hmet
  have hrpt : t.rpend = false := hlast.rpend_eq hqt
  obtain ⟨n, hrun, hledger, haccepted, hstarted⟩ := hframe.started_eq ⟨hq, hrp⟩ ⟨hqt, hrpt⟩
  exact ⟨n, t, hrun, hlive.running, hqt, hrpt, hend, hledger, haccepted, hstarted⟩

/-- Settles O58: back to back is a pace, and `waitdone` ends at rest. -/
theorem universeSequenceSendsTheFrame : Obligations.UniverseSequenceSendsTheFrame := by
  intro s channels hinv hrest hhost
  have hlines : assemble (universeProgram channels) = universeLines channels .done :=
    congrArg (wrLine .cmd 2#32 :: ·) (assemble_append ((0#8 :: channels).map .pushw) [.waitdone])
  have hp : paced s.host = universeLines channels .done := by rw [hhost, hlines, paced_universeLines]
  obtain ⟨t, hlive, hframe, _, hend, hmet⟩ := universe_transmits hinv hrest hp
  obtain ⟨_, _, hrp, hq⟩ := hrest
  have hrestt : t.atRest := (met_done_iff_atRest hlive.running).mp hmet
  have ⟨_, _, hrpt, hqt⟩ := hrestt
  obtain ⟨n, hrun, hledger, haccepted, hstarted⟩ := hframe.started_eq ⟨hq, hrp⟩ ⟨hqt, hrpt⟩
  exact ⟨n, t, hrun, hrestt, hend, hledger, haccepted, hstarted⟩

end Sys2Proof.Machine
end

section
/-! SUPPORT. The exceptional events over one cycle (R160, R162, R166): every cycle ends, and the entries it appends to the ledger. -/

namespace Sys2Proof.Machine

/-- Settles O25: the reset, the Engine's step and every access answer a next state, so the cycle does. -/
theorem everyCycleCompletes : Obligations.EveryCycleCompletes := step_next

/-- From `s` to `t` the ledger grows by the entries `new`, all of the cycle of `s` (R162). -/
def Appends (s t : State) (new : List LedgerEntry) : Prop := t.ledger = s.ledger ++ new ∧ ∀ e ∈ new, e.cycle = s.cycle

/-- What leaves the errors alone appends nothing. -/
theorem SameErrors.appends_nil {s t : State} (h : SameErrors s t) : Appends s t [] := by
  obtain ⟨_, hledger, _⟩ := h
  exact ⟨by simp [hledger], by simp⟩

/-- What records a fault appends its one entry. -/
theorem appends_entry {s t : State} {f : ModelFault} (h : t.ledger = s.ledger ++ [{ cycle := s.cycle, err := f }]) :
    Appends s t [{ cycle := s.cycle, err := f }] :=
  ⟨h, by simp⟩

/-- Within a cycle, what two operations append stands one after the other. -/
theorem Appends.trans {s t u : State} {l l' : List LedgerEntry} (h : Appends s t l) (h' : Appends t u l')
    (hc : t.cycle = s.cycle) : Appends s u (l ++ l') := by
  obtain ⟨hledger, hcycle⟩ := h
  obtain ⟨hledger', hcycle'⟩ := h'
  refine ⟨by rw [hledger', hledger, List.append_assoc], fun e he => ?_⟩
  rcases List.mem_append.mp he with he | he
  · exact hcycle e he
  · exact (hcycle' e he).trans hc

/-- The Engine's step appends entries in a reserved phase only (R101). -/
theorem engineNext_appends (s : State) : ∃ new, Appends s (engineNext s) new ∧ (s.phase.toNat ≤ 6 → new = []) := by
  by_cases hp : s.phase.toNat ≤ 6
  · exact ⟨[], ⟨by simp [engineNext_ledger hp], by simp⟩, fun _ => rfl⟩
  rcases engineNext_errors s with hsame | he
  · exact ⟨[], hsame.appends_nil, fun _ => rfl⟩
  · exact ⟨_, appends_entry (by rw [he]; rfl), fun hle => absurd hle hp⟩

/-- A write appends at most one entry: only the first failing check of an access raises (R166). -/
theorem write_appends {w : Haw} (hw : hawWr w = true) (s : State) :
    ∃ new, Appends s (execNext (decodeHaw w) s) new ∧ new.length ≤ 1 := by
  rcases write_errors hw s with ⟨f, _, he⟩ | ⟨_, he⟩ | hsame
  · exact ⟨_, appends_entry (by rw [he, raiseErr_ledger]), Nat.le_refl 1⟩
  · exact ⟨[], ⟨by simp [he], by simp⟩, Nat.zero_le 1⟩
  · exact ⟨[], hsame.appends_nil, Nat.zero_le 1⟩

/-- Settles O39: the Engine's entries come before the write's (R90), and in a legal phase the Engine has none. -/
theorem ledgerOnlyGrows : Obligations.LedgerOnlyGrows := by
  intro s t hstep
  obtain ⟨new, hengine, hnil⟩ := engineNext_appends s
  rcases step_cases_engine_first hstep with ⟨_, rfl⟩ | ⟨_, v, rfl⟩ | ⟨w, _, hw, rfl⟩
  · exact ⟨[], (List.append_nil _).symm, by simp, fun _ => Nat.zero_le 1⟩
  · obtain ⟨hledger, hcycle⟩ := hengine
    exact ⟨new, hledger, hcycle, fun hinv => by simp [hnil hinv.phase_le]⟩
  · obtain ⟨new', hwrite, hlen⟩ := write_appends hw (beginCycle (engineNext s))
    obtain ⟨hledger, hcycle⟩ : Appends s _ (new ++ new') := Appends.trans hengine hwrite (engineNext_cycle s)
    exact ⟨new ++ new', hledger, hcycle, fun hinv => by simpa [hnil hinv.phase_le] using hlen⟩

end Sys2Proof.Machine
end

section
/-! SUPPORT. Reset (R180, R181): the cycle that asserts it, and what the Host and the outputs see of the state after it. -/

namespace Sys2Proof.Machine

/-! ### A cycle with reset -/

/-- A cycle with `rst = 1` resets the state, whatever access it presents (R180). -/
theorem step_of_rst {s : State} (h : (busIn s).rst = true) : step s = .next (endCycle (applyReset s)) := by
  simp [step, cycleStep, h]

/-- In a cycle with `rst = 1` no read drives the bus (R39, R180). -/
theorem busRdata_of_rst {s : State} (h : (busIn s).rst = true) : busRdata s = 0#32 := by
  simp [busRdata, h]

/-- In a cycle with `rst = 1` the line is at mark (R40, R180). -/
theorem dmxTx_of_rst {s : State} (h : (busIn s).rst = true) : dmxTx s = some true := by
  simp [dmxTx, h]

/-- Settles O26: the cycle is applyReset alone, and the two outputs are held. -/
theorem resetCycleResets : Obligations.ResetCycleResets := fun _ hr =>
  ⟨_, step_of_rst hr, rfl, rfl, rfl, rfl, rfl, rfl, rfl, rfl, rfl, rfl, rfl, rfl, rfl,
    busRdata_of_rst hr, dmxTx_of_rst hr, rfl⟩

/-! ### The state after reset -/

/-- An empty queue is not full: every depth is from 4 to 8 (R6, R29). -/
theorem txqFull_of_empty {s : State} (h : s.txq = []) : txqFull s = false := by
  have hdepth := (txqDepth_bounds s).1
  have hlevel : qLevel s = 0 := by simp [qLevel, h]
  rw [txqFull, beq_eq_false_iff_ne, hlevel]
  omega

/-- While Stopped the block asks for no byte (R41). -/
theorem dreq_of_stopped {s : State} (h : s.running = false) : dreq s = false := by
  simp [dreq, h]

/-- CLKDIV after reset (R116, R181). -/
theorem clkdivWord_resetWith (cfg : Config) : clkdivWord (State.resetWith cfg) = 0#32 := by
  apply BitVec.eq_of_toNat_eq
  simp [clkdivWord_toNat, State.resetWith]

/-- STATUS after reset: TXQ_EMPTY alone, at every depth (R34, R181). -/
theorem statusWord_resetWith (cfg : Config) : statusWord (State.resetWith cfg) = 0x00000004#32 := by
  have hfull : txqFull (State.resetWith cfg) = false := txqFull_of_empty rfl
  apply BitVec.eq_of_toNat_eq
  rw [statusWord_toNat, hfull]
  simp [State.resetWith, serBusy, txqEmpty, qLevel]

/-- PARAM at depth 4 (R36, R119). -/
theorem paramWord_of_depth_four {s : State} (h : txqDepth s = 4) : paramWord s = 0x00240858#32 := by
  apply BitVec.eq_of_toNat_eq
  rw [paramWord_toNat, h]
  rfl

/-- Settles O27: the elements by evaluation; CLKDIV, STATUS and the outputs at every depth, PARAM at depth 4. -/
theorem resetValues : Obligations.ResetValues := fun cfg =>
  ⟨rfl, rfl, clkdivWord_resetWith cfg, rfl, rfl, rfl, rfl, rfl, rfl, rfl, rfl, rfl, rfl, statusWord_resetWith cfg,
    fun h4 => paramWord_of_depth_four (congrArg TxqDepth.toNat h4), dmxTx_idle rfl, dreq_of_stopped rfl, rfl⟩

/-- A reset changes nothing in the state that it leads to (R180). -/
theorem applyReset_resetWith (cfg : Config) : applyReset (State.resetWith cfg) = State.resetWith cfg := rfl

/-- After reset no flag is set and the ledger is empty, so there is nothing to account for (R31, R162). -/
theorem ledgerInv_resetWith (cfg : Config) : (State.resetWith cfg).LedgerInv where
  txover := fun h => absurd h Bool.false_ne_true
  state := fun h => absurd h Bool.false_ne_true
  clk := fun h => absurd h Bool.false_ne_true
  cmd := fun h => absurd h Bool.false_ne_true
  past := fun _ he => absurd he List.not_mem_nil

/-- Settles O36: a reset brings the invariant about, and it leaves the reset state as it is. -/
theorem invariantAtReset : Obligations.InvariantAtReset := fun cfg =>
  ⟨applyReset_resetWith cfg ▸ applyReset_inv (State.resetWith cfg), ledgerInv_resetWith cfg⟩

end Sys2Proof.Machine
end
